-- ==== Sys2Proof/Word.lean ====
section
/-! DEFINITION. The words of the machine: 8-bit bytes, 32-bit words, 4-bit register fields (spec/00_scope.md R4, R11). -/

namespace Sys2Proof

/-- A byte is 8 bits (R4, R11). -/
abbrev Byte := BitVec 8

/-- A register, an address and an immediate are 32 bits (R4, R20; addresses by decision D1, log 1). -/
abbrev Word := BitVec 32

/-- A register field of an encoding, 4 bits: value `k` names register `rk`, every value is legal (R95). -/
abbrev RegIdx := BitVec 4

end Sys2Proof
end

