-- ==== Sys2Proof/Config.lean ====
section
/-! DEFINITION. The open parameters of spec/00_scope.md R5: constants of one machine that the source gives no number for. -/

namespace Sys2Proof

/-- The open parameters (R5). Every one is a natural number below 2^32, hence a `Word`. The spec leaves the numbers open
(decisions D2, D3, D13, D22); a machine carries its own record in `State.cfg` (log 28), and a statement about every state is
a statement about every map. `WellFormed.lean` states the constraints of R6 (a) to (c). -/
structure Config where
  /-- First and last byte address of the RAM window, both inclusive. -/
  ramStart : Word
  ramEnd : Word
  /-- First and last byte address of the ROM window, both inclusive. -/
  romStart : Word
  romEnd : Word
  /-- Address of entry 0 of the vector table (R208). -/
  vectorTableBase : Word
  /-- Address of the 4-byte reset-vector slot (R263). -/
  resetVectorAddr : Word
  /-- Value of isp after `cpu.reset()` (R41). -/
  ispReset : Word
  /-- Vector number of the timer's request (R228). -/
  timerVector : Word
  /-- The two peripheral I/O windows and the data-flash region: used by no rule, unmapped to the decoder (R57). -/
  periph1Start : Word
  periph1End : Word
  periph2Start : Word
  periph2End : Word
  dataFlashStart : Word
  dataFlashEnd : Word
  /-- Base addresses of the peripherals: used by no rule (R218, D22). -/
  gpioBase : Word
  timerBase : Word
  serialBase : Word
  deriving DecidableEq, Repr

end Sys2Proof
end

