-- ==== Sys2Proof/Machine/AddressMap.lean ====
section
/-! DEFINITION. The address map: window predicates, fixed parameters and the spec's two map instances (spec/00_scope.md R4 to R7,
spec/20_memory.md R52). Addresses are compared as natural numbers, so that `load`'s unbounded counting (R66) uses the same
predicates as the 32-bit accesses. -/

namespace Sys2Proof

/-- `RAM_START <= a and a <= RAM_END`, both bounds inclusive (R52). -/
abbrev Config.InRAM (c : Config) (a : Nat) : Prop := c.ramStart.toNat ≤ a ∧ a ≤ c.ramEnd.toNat

/-- `ROM_START <= a and a <= ROM_END`, both bounds inclusive (R52). -/
abbrev Config.InROM (c : Config) (a : Nat) : Prop := c.romStart.toNat ≤ a ∧ a ≤ c.romEnd.toNat

/-- `inRAM(a) or inROM(a)`; an address that is not mapped is "unmapped" (R52, R54). -/
abbrev Config.Mapped (c : Config) (a : Nat) : Prop := c.InRAM a ∨ c.InROM a

/-- The address lies in a peripheral I/O window or the data-flash region of the map (R5, R57). -/
abbrev Config.InDeviceRegion (c : Config) (a : Nat) : Prop :=
  (c.periph1Start.toNat ≤ a ∧ a ≤ c.periph1End.toNat) ∨ (c.periph2Start.toNat ≤ a ∧ a ≤ c.periph2End.toNat) ∨
    (c.dataFlashStart.toNat ≤ a ∧ a ≤ c.dataFlashEnd.toNat)

namespace Machine

/-- NOP_FILL, the byte every untouched ROM cell holds (R4, R33). -/
def nopFill : Byte := 0x03

/-- The byte every untouched RAM cell holds (R41; decision D11, log 11). -/
def ramFill : Byte := 0x00

/-- TIMER_CMP_DEFAULT (R4, R225). -/
def timerCmpDefault : Word := 1000

/-- TIMER_PRIORITY (R4, R228). -/
def timerPriority : Nat := 3

/-- The spec's own test map MAP_SMALL (R7, not normative), with `ISP_RESET = RAM_END + 1` and `TIMER_VECTOR = 28`.
R7 gives it no peripheral and data-flash numbers; those of MAP_RX stand here, all outside both windows, and the peripheral
bases are the model's (DESIGN CHOICE, log 29). -/
def mapSmall : Config where
  ramStart := 0x00001000
  ramEnd := 0x00001FFF
  romStart := 0x00008000
  romEnd := 0x00008FFF
  vectorTableBase := 0x00008F80
  resetVectorAddr := 0x00008FFC
  ispReset := 0x00002000
  timerVector := 28
  periph1Start := 0x00080000
  periph1End := 0x000FFFFF
  periph2Start := 0x007FC000
  periph2End := 0x007FFFFF
  dataFlashStart := 0x00100000
  dataFlashEnd := 0x00107FFF
  gpioBase := 0x00080000
  timerBase := 0x00080010
  serialBase := 0x00080020

/-- The test map MAP_RX (R7, from general knowledge, not normative); used by the spec's wrap-around vectors. -/
def mapRx : Config :=
  { mapSmall with
    ramStart := 0x00000000
    ramEnd := 0x0003FFFF
    romStart := 0xFFE00000
    romEnd := 0xFFFFFFFF
    vectorTableBase := 0xFFFFFF80
    resetVectorAddr := 0xFFFFFFFC
    ispReset := 0x00040000 }

/-- The map `State.reset` carries. DESIGN CHOICE (log 29): the spec gives no numbers; this is the spec's MAP_SMALL, which meets
every constraint of R6, (d) and (e) included. -/
def resetConfig : Config := mapSmall

end Machine

end Sys2Proof
end

