-- ==== Sys2Proof/Machine/Bytes.lean ====
section
/-! DEFINITION. Byte order and bit fields: little-endian composition (spec/20_memory.md R60, R61, R67) and nibbles (R11). -/

namespace Sys2Proof.Machine

/-- `b0 | b1 << 8`: the byte at the lower address is the less significant (R60). -/
def le16 (b0 b1 : Byte) : BitVec 16 := b1 ++ b0

/-- `b0 | b1 << 8 | b2 << 16 | b3 << 24` (R61). -/
def le32 (b0 b1 b2 b3 : Byte) : Word := b3 ++ b2 ++ b1 ++ b0

/-- `v[8k+7 : 8k]`, byte `k` of a number of any size (R11): how a value is decomposed and truncated (R63, R64, R81). -/
def byteOf (v k : Nat) : Byte := BitVec.ofNat 8 (v >>> (8 * k))

/-- `w` with byte `k` replaced by `b`, for `k` in 0..3; other `k` leave `w` as it is. -/
def setByte (w : Word) (k : Nat) (b : Byte) : Word :=
  match k with
  | 0 => le32 b (byteOf w.toNat 1) (byteOf w.toNat 2) (byteOf w.toNat 3)
  | 1 => le32 (byteOf w.toNat 0) b (byteOf w.toNat 2) (byteOf w.toNat 3)
  | 2 => le32 (byteOf w.toNat 0) (byteOf w.toNat 1) b (byteOf w.toNat 3)
  | 3 => le32 (byteOf w.toNat 0) (byteOf w.toNat 1) (byteOf w.toNat 2) b
  | _ => w

/-- `b[7:4]` (R11). -/
def hiNibble (b : Byte) : BitVec 4 := b.extractLsb' 4 4

/-- `b[3:0]` (R11). -/
def loNibble (b : Byte) : BitVec 4 := b.extractLsb' 0 4

/-- The byte with high nibble `h` and low nibble `l`: `h || l` (R11). -/
def nibbles (h l : BitVec 4) : Byte := h ++ l

end Sys2Proof.Machine
end

