-- ==== Sys2Proof/Machine/Memory.lean ====
section
/-! DEFINITION. The address decoder over the RAM and ROM buffers (spec/20_memory.md R50 to R73, R81; spec/10_state.md R32, R33).
Memory is one list of (address, byte) pairs; an unlisted address reads as its power-on byte. -/

namespace Sys2Proof.Machine

/-- The contents of RAM and ROM, keyed by global address: strictly rising addresses, only mapped ones, and no byte equal to what
an unlisted address reads as (`Memory.wf`). -/
abbrev Memory := List Host.Cell

/-- What an unlisted address reads as: 0x00 in RAM, 0x03 in ROM (R33, R41), and 0 where nothing is backed (R54). -/
def Memory.unlisted (c : Config) (a : Nat) : Byte :=
  if c.InRAM a then ramFill else if c.InROM a then nopFill else 0

/-- The listed byte at an address, if any. -/
def Memory.find : Memory → Nat → Option Byte
  | [], _ => none
  | (k, b) :: m, a => if k = a then some b else Memory.find m a

/-- List the byte `b` at `a`, in place. -/
def Memory.insert (a : Nat) (b : Byte) : Memory → Memory
  | [] => [(a, b)]
  | (k, v) :: m =>
    if a < k then (a, b) :: (k, v) :: m
    else if a = k then (a, b) :: m
    else (k, v) :: Memory.insert a b m

/-- List nothing at `a`. -/
def Memory.erase (a : Nat) (m : Memory) : Memory := m.filter (fun cell => cell.1 ≠ a)

/-- The byte a buffer holds at `a`. -/
def Memory.get (c : Config) (m : Memory) (a : Nat) : Byte := (m.find a).getD (Memory.unlisted c a)

/-- `a`'s buffer cell becomes `b`; writing the power-on byte removes the entry, so that equal contents are equal lists. -/
def Memory.set (c : Config) (m : Memory) (a : Nat) (b : Byte) : Memory :=
  if b = Memory.unlisted c a then m.erase a else m.insert a b

/-- The canonical form. -/
abbrev Memory.wf (c : Config) (m : Memory) : Prop :=
  (m.map Prod.fst).Pairwise (· < ·) ∧ ∀ cell ∈ m, c.Mapped cell.1 ∧ cell.2 ≠ Memory.unlisted c cell.1

/-- `read8` (R59): total, unmapped addresses read 0x00. -/
def Memory.read8 (c : Config) (m : Memory) (a : Word) : Byte :=
  if c.Mapped a.toNat then m.get c a.toNat else 0

/-- `read16` (R60); the address of the second byte wraps modulo 2^32 (R70; decision D1, log 1). -/
def Memory.read16 (c : Config) (m : Memory) (a : Word) : BitVec 16 :=
  le16 (m.read8 c a) (m.read8 c (a + 1))

/-- `read32` (R61). -/
def Memory.read32 (c : Config) (m : Memory) (a : Word) : Word :=
  le32 (m.read8 c a) (m.read8 c (a + 1)) (m.read8 c (a + 2)) (m.read8 c (a + 3))

/-- `write8` (R62): unmapped writes do nothing, writes to ROM land (R72, D9, log 9), the value is cut to 8 bits (R81, D25, log 25). -/
def Memory.write8 (c : Config) (m : Memory) (a : Word) (v : Nat) : Memory :=
  if c.Mapped a.toNat then m.set c a.toNat (byteOf v 0) else m

/-- `write16` (R63). -/
def Memory.write16 (c : Config) (m : Memory) (a : Word) (v : Nat) : Memory :=
  (m.write8 c a (v >>> 0)).write8 c (a + 1) (v >>> 8)

/-- `write32` (R64). -/
def Memory.write32 (c : Config) (m : Memory) (a : Word) (v : Nat) : Memory :=
  (((m.write8 c a (v >>> 0)).write8 c (a + 1) (v >>> 8)).write8 c (a + 2) (v >>> 16)).write8 c (a + 3) (v >>> 24)

/-- `mem.reset()` (R65): RAM to zero, ROM kept. -/
def Memory.resetRam (c : Config) (m : Memory) : Memory := m.filter (fun cell => ¬ c.InRAM cell.1)

/-- The copying loop of `load` (R66): the byte for address `a`, then the following ones, each dropped past `last`. The address is an
unbounded natural number (decision D27, log 27). -/
def Memory.copyIn (c : Config) (last : Nat) : Nat → List Byte → Memory → Memory
  | _, [], m => m
  | a, b :: bs, m => Memory.copyIn c last (a + 1) bs (if a ≤ last then m.set c a b else m)

/-- `load(data, offset)` (R66): the changed memory, or `none` when `offset` is in no window (the whole call is discarded). -/
def Memory.load (c : Config) (m : Memory) (data : List Byte) (offset : Nat) : Option Memory :=
  if c.InRAM offset then some (Memory.copyIn c c.ramEnd.toNat offset data m)
  else if c.InROM offset then some (Memory.copyIn c c.romEnd.toNat offset data m)
  else none

end Sys2Proof.Machine
end

