-- ==== Sys2Proof/Machine/Parts.lean ====
section
/-! DEFINITION. The pieces of state beside registers and memory, with their reset values (spec/10_state.md R25 to R41). -/

namespace Sys2Proof.Machine

/-- The two processor modes of PSW.PM (R28, R222). -/
inductive ProcMode where
  | supervisor
  | user
  deriving DecidableEq, Repr

/-- PSW.PM as a bit: 0 is supervisor (R28; decision D6, log 6). -/
def ProcMode.toBit : ProcMode → BitVec 1
  | .supervisor => 0
  | .user => 1

/-- The processor status word: exactly eight fields, a record and no packed register (R25, R29). -/
structure PSW where
  /-- Interrupts enabled (R25); read by nothing (R28). -/
  I : Bool
  /-- Active stack is the user stack (R25); selects nothing (R222). -/
  U : Bool
  /-- Processor mode (R25); checked by nothing (R222). -/
  PM : ProcMode
  /-- Interrupt priority level (R25); compared with nothing (R211). -/
  IPL : BitVec 4
  /-- Overflow (R25); no instruction writes it (R27). -/
  O : Bool
  /-- Sign (R25, R26). -/
  S : Bool
  /-- Zero (R25, R26). -/
  Z : Bool
  /-- Carry (R25); no instruction writes it (R27). -/
  C : Bool
  deriving DecidableEq, Repr

/-- "interrupts disabled, supervisor mode, IPL 0, all condition flags clear" (R41, R261); U is decision D5 (log 5). -/
def resetPsw : PSW :=
  { I := false, U := false, PM := .supervisor, IPL := 0, O := false, S := false, Z := false, C := false }

/-- All sixteen registers zero (R41, R261). -/
def resetRegs : Vector Word 16 := Vector.replicate 16 0

/-- usp after `cpu.reset()` (R41, R261; decision D4, log 4). -/
def resetUsp : Word := 0

/-- acc after `cpu.reset()` (R31, R41). -/
def resetAcc : BitVec 64 := 0

/-- Who raised a request: "an opaque tag ... no rule inspects it" (R201). DESIGN CHOICE (log 33): the timer's tag, and a number
for every other label. -/
inductive Source where
  /-- The timer's tag, TIMER (R228; decision D13, log 13). -/
  | timer
  /-- Any other label. -/
  | label (tag : Nat)
  deriving DecidableEq, Repr

/-- `{vector, priority, source}` (R201); natural numbers without bound (decision D12, log 12). -/
structure InterruptRequest where
  vector : Nat
  priority : Nat
  source : Source
  deriving DecidableEq, Repr

/-- The timer's four pieces of state (R36, R225). -/
structure Timer where
  CNT : Word
  CMP : Word
  EN : Byte
  IEN : Byte
  deriving DecidableEq, Repr

/-- The timer after its `reset()` and at power-on (R41, R230). -/
def resetTimer : Timer := { CNT := 0, CMP := timerCmpDefault, EN := 0, IEN := 0 }

/-- The GPIO block's three registers; bit `n` belongs to pin `n` (R37, R235). -/
structure Gpio where
  DIR : Byte
  OUT : Byte
  IN : Byte
  deriving DecidableEq, Repr

/-- GPIO after its `reset()` and at power-on (R41, R239). -/
def resetGpio : Gpio := { DIR := 0, OUT := 0, IN := 0 }

/-- The serial-transmit block: its only state is the append-only output log, oldest first (R38, R246). -/
structure Serial where
  LOG : List Byte
  deriving DecidableEq, Repr

/-- The serial block at power-on (R41). -/
def powerOnSerial : Serial := { LOG := [] }

/-- A diagnostic event of the report channel (R39, R191; payload by decision D19, log 19). -/
inductive Report where
  /-- Appended by the step that meets an unrecognized byte (R191, R192). -/
  | unrecognizedOpcode (addr : Word) (byte : Byte)
  /-- Appended by a `load` whose offset is in no window (R66). -/
  | loadOutOfWindow (offset len : Nat)
  deriving DecidableEq, Repr

end Sys2Proof.Machine
end

