-- ==== Sys2Proof/Machine/State.lean ====
section
/-! DEFINITION. The state of the machine: everything spec/10_state.md gives it (R20 to R41), as plain data, and the state after reset. -/

namespace Sys2Proof.Machine

/-- Reasons a step could stop with a fault: none. "A model's step function therefore always returns a next state; it has no fault
outcome and no stuck outcome" (R136); no access can fault (R55); nothing raises one. -/
inductive Fault where
  deriving DecidableEq, Repr

/-- Reasons an instruction could be refused. -/
inductive Refusal where
  /-- An instruction with no meaning yet, named as spec/opcode_table.json spells it. Safe (it only stops a run), and no arm of
  `exec` answers with it: every instruction has its meaning. -/
  | notModelled (mnemonic : String)
  deriving DecidableEq, Repr

/-- The whole state: the CPU (R20 to R31), RAM and ROM (R32, R33), the interrupt queue (R35), the peripherals (R36 to R38), the
report channel (R39), and the machine's constants (R5, R42), which no operation changes. -/
structure State where
  /-- The open parameters. The model's own field: configuration in the spec (R42), carried here so that one step function
  serves every map (DESIGN CHOICE, log 28). -/
  cfg : Config
  /-- `x[0]` to `x[15]`; none is hardwired (R20). -/
  regs : Vector Word 16
  /-- Address of the first byte of the next instruction (R23). -/
  pc : Word
  /-- User stack pointer; no instruction reads or writes it (R30). -/
  usp : Word
  /-- Interrupt stack pointer; no instruction reads or writes it (R30). -/
  isp : Word
  /-- The 64-bit accumulator; no instruction reads or writes it (R31). -/
  acc : BitVec 64
  /-- The processor status word (R25). -/
  psw : PSW
  /-- RAM and ROM (R32, R33). -/
  mem : Memory
  /-- The interrupt controller's queue, front first (R35). -/
  pending : List InterruptRequest
  timer : Timer
  gpio : Gpio
  serial : Serial
  /-- The report channel REPORTS, oldest first (R39). -/
  reports : List Report
  deriving DecidableEq, Repr

/-- The state before the host has invoked anything, for a given map (R41, R260). The CPU items are those of R41's power-on column,
listed there "for convenience only": a launch begins with `cpu.reset()` (U5, log 36). -/
def State.powerOn (c : Config) : State where
  cfg := c
  regs := resetRegs
  pc := Memory.read32 c [] c.resetVectorAddr
  usp := resetUsp
  isp := c.ispReset
  acc := resetAcc
  psw := resetPsw
  mem := []
  pending := []
  timer := resetTimer
  gpio := resetGpio
  serial := powerOnSerial
  reports := []

/-- The machine right after reset: power-on, then `cpu.reset()` (R260, R261), which writes R41's power-on CPU values again
(`cpuReset_powerOn`). pc is what the unseeded reset-vector slot holds (R263). -/
def State.reset : State := State.powerOn resetConfig

end Sys2Proof.Machine
end

