-- ==== Sys2Proof/Machine/Flags.lean ====
section
/-! DEFINITION. The flag computation: `setZS`, the only one there is (spec/40_execution_cycle.md R139; spec/10_state.md R26, R27). -/

namespace Sys2Proof.Machine

/-- `Z = result==0` (R139). -/
def zeroFlag (v : Word) : Bool := v == 0

/-- `S = bit 31 set` (R139). -/
def signFlag (v : Word) : Bool := v.getLsbD 31

/-- `setZS(v)` (R12, R139): Z and S from the 32-bit result; O, C and the other fields stay (R27, R28). -/
def State.setZS (s : State) (v : Word) : State :=
  { s with psw := { s.psw with Z := zeroFlag v, S := signFlag v } }

end Sys2Proof.Machine
end

