-- ==== Sys2Proof/Syntax.lean ====
section
/-! DEFINITION. The four instructions of the hardware, one constructor per row of spec/opcode_table.json, in its order. -/

namespace Sys2Proof

/-- The whole instruction set (R1, R90). A byte that starts none of the four is not an instruction: the decoder answers
`Decoded.unrecognized` for it (R97, R100). -/
inductive Instr where
  /-- NOP (R150). -/
  | nop
  /-- MOV.L #imm32, Rd (R155). -/
  | movImm (d : RegIdx) (imm32 : Word)
  /-- MOV.L Rs, Rd (R156). -/
  | movReg (rs d : RegIdx)
  /-- ADD.L #imm32, Rd (R165). -/
  | addImm (d : RegIdx) (imm32 : Word)
  deriving DecidableEq, Repr

end Sys2Proof
end

