-- ==== Sys2Proof/WellFormed.lean ====
section
/-! DEFINITION. Well-formedness: of an instruction (spec/30_encoding.md R95, R96) and of the open parameters (spec/00_scope.md R6). -/

namespace Sys2Proof

/-- Every operand value of every instruction is legal: a register field is 4 bits and "every value is legal" (R95), an
immediate is 32 bits (R96). The types of `Instr` carry exactly these bounds, so no ill-formed instruction can be written. -/
def Instr.wellFormed : Instr → Bool
  | .nop => true
  | .movImm _ _ => true
  | .movReg _ _ => true
  | .addImm _ _ => true

/-- R6 (a), RAM. -/
abbrev Config.RamOrdered (c : Config) : Prop := c.ramStart.toNat ≤ c.ramEnd.toNat

/-- R6 (a), ROM. -/
abbrev Config.RomOrdered (c : Config) : Prop := c.romStart.toNat ≤ c.romEnd.toNat

/-- R6 (b): "RAM and ROM address ranges never overlap". -/
abbrev Config.Disjoint (c : Config) : Prop :=
  c.ramEnd.toNat < c.romStart.toNat ∨ c.romEnd.toNat < c.ramStart.toNat

/-- R6 (c): `ISP_RESET` is `RAM_END` or `(RAM_END + 1) mod 2^32`. -/
abbrev Config.IspAtTopOfRam (c : Config) : Prop := c.ispReset = c.ramEnd ∨ c.ispReset = c.ramEnd + 1

/-- The constraints on the open parameters, R6 (a), (b) and (c). -/
abbrev Config.Valid (c : Config) : Prop := c.RamOrdered ∧ c.RomOrdered ∧ c.Disjoint ∧ c.IspAtTopOfRam

/-- R6 (d), a condition on a useful instance and no invariant: the neighbours of the windows, taken as 32-bit addresses that wrap, are
unmapped. MAP_SMALL meets it and MAP_RX cannot (R7, 90_conflicts.md C1); log 37. -/
abbrev Config.BoundaryUnmapped (c : Config) : Prop :=
  ¬ c.Mapped (c.romEnd + 1).toNat ∧ ¬ c.Mapped (c.ramStart - 1).toNat

/-- R6 (e), a condition on a useful instance: the reset-vector slot lies inside one window. -/
abbrev Config.Bootable (c : Config) : Prop :=
  (c.InRAM c.resetVectorAddr.toNat ∧ c.InRAM (c.resetVectorAddr.toNat + 3)) ∨
    (c.InROM c.resetVectorAddr.toNat ∧ c.InROM (c.resetVectorAddr.toNat + 3))

/-- R57: the peripheral I/O windows and the data-flash region are unmapped to the decoder. The spec lists no such constraint in R6; a
map in which a region overlaps a window is excluded only here (log 42). -/
abbrev Config.DevicesUnmapped (c : Config) : Prop := ∀ a, c.InDeviceRegion a → ¬ c.Mapped a

end Sys2Proof
end

