-- ==== Sys2Proof/Decode.lean ====
section
/-! DEFINITION. Decoding, total on any bytes, and encoding (spec/30_encoding.md R90 to R103, R113), lengths and cycle costs (R90, R281). -/

namespace Sys2Proof

open Machine (le32 byteOf hiNibble loNibble nibbles)

/-- The five outcomes of the decoder (R97): one of the four instructions, or the unrecognized byte at pc, by name. -/
inductive Decoded where
  /-- The bytes are this instruction. -/
  | instr (i : Instr)
  /-- No pattern matches: the unit is the single byte at pc, whatever follows it (R100). -/
  | unrecognized (byte : Byte)
  deriving DecidableEq, Repr

/-- The encoding length in bytes (R90). -/
def Instr.length : Instr → Nat
  | .nop => 1
  | .movImm _ _ => 7
  | .movReg _ _ => 2
  | .addImm _ _ => 6

/-- The cycle cost (R90, R134, R281): a return value of `step()`, not state (R42). -/
def Instr.cycles : Instr → Nat
  | .nop => 1
  | .movImm _ _ => 2
  | .movReg _ _ => 1
  | .addImm _ _ => 2

/-- How many bytes the decoded unit occupies: 1 for an unrecognized byte (R100). -/
def Decoded.length : Decoded → Nat
  | .instr i => i.length
  | .unrecognized _ => 1

/-- What `step()` returns for the decoded unit (R134). -/
def Decoded.cycles : Decoded → Nat
  | .instr i => i.cycles
  | .unrecognized _ => 1

/-- The decode function of R97: `b k` is the byte at `u32(pc + k)`. The arms stand in the source's table order (R99), and the
fixed nibbles are part of the match (R98, decision D7, log 7). -/
def decode (b : Nat → Byte) : Decoded :=
  if b 0 = 0x03 then .instr .nop
  else if b 0 = 0xFB ∧ b 1 = 0x12 ∧ hiNibble (b 2) = 0 then
    .instr (.movImm (loNibble (b 2)) (le32 (b 3) (b 4) (b 5) (b 6)))
  else if b 0 = 0xCF then .instr (.movReg (hiNibble (b 1)) (loNibble (b 1)))
  else if b 0 = 0x72 ∧ hiNibble (b 1) = 2 then
    .instr (.addImm (loNibble (b 1)) (le32 (b 2) (b 3) (b 4) (b 5)))
  else .unrecognized (b 0)

/-- Decoding of a list of bytes; a byte beyond its end is 0, as an unmapped address gives it (R103). -/
def decodeList (bs : List Byte) : Decoded := decode (fun k => bs.getD k 0)

/-- An imm32, least significant byte first (R96). -/
def encodeImm (imm : Word) : List Byte :=
  [byteOf imm.toNat 0, byteOf imm.toNat 1, byteOf imm.toNat 2, byteOf imm.toNat 3]

/-- The bytes of an instruction, the first at the lowest address, from formats N, MI, RR and AI (R91 to R94). -/
def encode : Instr → List Byte
  | .nop => [0x03]
  | .movImm d imm => [0xFB, 0x12, nibbles 0 d] ++ encodeImm imm
  | .movReg rs d => [0xCF, nibbles rs d]
  | .addImm d imm => [0x72, nibbles 2 d] ++ encodeImm imm

/-- "Decoding the produced bytes one instruction at a time" (R113), with `fuel` units at most. -/
def decodeUnits : Nat → List Byte → List Decoded
  | 0, _ => []
  | _ + 1, [] => []
  | fuel + 1, b :: bs =>
    let d := decodeList (b :: bs)
    d :: decodeUnits fuel ((b :: bs).drop d.length)

/-- All units of a byte stream; every unit has at least one byte, so `length` units suffice. -/
def decodeStream (bs : List Byte) : List Decoded := decodeUnits bs.length bs

/-- One row of the pattern table (R90): leading pattern bytes with the mask that selects their fixed bits, in address order. -/
structure OpcodeRow where
  mnemonic : String
  pattern : List Byte
  mask : List Byte
  length : Nat
  cycles : Nat
  deriving DecidableEq, Repr

/-- The pattern table of spec/opcode_table.json, in priority order (R90, R97, R99). -/
def opcodeRows : List OpcodeRow :=
  [⟨"NOP", [0x03], [0xFF], 1, 1⟩,
   ⟨"MOV.L__imm32_Rd", [0xFB, 0x12, 0x00], [0xFF, 0xFF, 0xF0], 7, 2⟩,
   ⟨"MOV.L_Rs_Rd", [0xCF], [0xFF], 2, 1⟩,
   ⟨"ADD.L__imm32_Rd", [0x72, 0x20], [0xFF, 0xF0], 6, 2⟩]

/-- `(bytes AND mask) == match` over the leading bytes (head of spec/30_encoding.md). -/
def matchBytes : List Byte → List Byte → Nat → (Nat → Byte) → Bool
  | p :: ps, m :: ms, k, b => (b k &&& m) == p && matchBytes ps ms (k + 1) b
  | _, _, _, _ => true

/-- The row matches the bytes at pc. -/
def OpcodeRow.hits (r : OpcodeRow) (b : Nat → Byte) : Bool := matchBytes r.pattern r.mask 0 b

/-- The mnemonic of an instruction's row in spec/opcode_table.json. -/
def Instr.mnemonic : Instr → String
  | .nop => "NOP"
  | .movImm _ _ => "MOV.L__imm32_Rd"
  | .movReg _ _ => "MOV.L_Rs_Rd"
  | .addImm _ _ => "ADD.L__imm32_Rd"

/-- The longest instruction, in bytes (R90). -/
def maxLength : Nat := 7

/-- The bytes of `w`, byte `k` from bits `8(n-1-k)+7 : 8(n-1-k)`, then zeros: the numbering of spec/opcode_table.json's own
`fixed` and `fields` for its two-byte row, which reads the whole row as one number with the FIRST byte most significant. -/
def bytesFirstHigh (nbits w : Nat) : List Byte :=
  (List.range (nbits / 8)).map (fun k => byteOf w (nbits / 8 - 1 - k))

/-- The bytes of `w`, byte `k` from bits `8k+7 : 8k`: the first byte least significant. -/
def bytesFirstLow (nbits w : Nat) : List Byte := (List.range (nbits / 8)).map (fun k => byteOf w k)

/-- These bytes, followed by zeros, are an instruction of at least `nbits` bits. -/
def fitsRow (nbits : Nat) (bs : List Byte) : Bool :=
  match decodeList bs with
  | .instr i => nbits ≤ 8 * i.length
  | .unrecognized _ => false

/-- The bytes of a table word in address order, padded with zeros to the longest instruction. DESIGN CHOICE (log 30): the
table numbers its two-byte row with the first byte high; a word that is no instruction of its row that way is read with the
first byte low. -/
def tableBytes (nbits w : Nat) : List Byte :=
  let bs := if fitsRow nbits (bytesFirstHigh nbits w) then bytesFirstHigh nbits w else bytesFirstLow nbits w
  bs ++ List.replicate (maxLength - bs.length) 0

/-- The instruction the decoder reads from a table word, `none` where it is an unrecognized byte or shorter than the row. -/
def decodeTableWord (nbits w : Nat) : Option Instr :=
  match decodeList (tableBytes nbits w) with
  | .instr i => if nbits ≤ 8 * i.length then some i else none
  | .unrecognized _ => none

end Sys2Proof
end

