-- ==== Sys2Proof/Machine/Ops.lean ====
section
/-! DEFINITION. The named operations over registers, memory and the report channel; the one exceptional condition; `cpu.reset()`,
`mem.reset()` and `load` (spec/00_scope.md R12, spec/20_memory.md, spec/60_exceptions.md R190 to R193, spec/70_reset_and_hazards.md). -/

namespace Sys2Proof.Machine

/-- `x[i]` (R12, R20). -/
def State.readReg (s : State) (i : RegIdx) : Word := s.regs[i.toNat]

/-- `x[i] <- v` (R12, R20). -/
def State.writeReg (s : State) (i : RegIdx) (v : Word) : State := { s with regs := s.regs.set i.toNat v }

/-- `pc <- u32(pc + len)` (R24, R133; the wrap is decision D1, log 1). -/
def State.advancePc (s : State) (len : Nat) : State := { s with pc := s.pc + BitVec.ofNat 32 len }

/-- `read8` (R59). -/
def State.read8 (s : State) (a : Word) : Byte := s.mem.read8 s.cfg a

/-- `read16` (R60). -/
def State.read16 (s : State) (a : Word) : BitVec 16 := s.mem.read16 s.cfg a

/-- `read32` (R61). -/
def State.read32 (s : State) (a : Word) : Word := s.mem.read32 s.cfg a

/-- `write8` (R62). -/
def State.write8 (s : State) (a : Word) (v : Nat) : State := { s with mem := s.mem.write8 s.cfg a v }

/-- `write16` (R63). -/
def State.write16 (s : State) (a : Word) (v : Nat) : State := { s with mem := s.mem.write16 s.cfg a v }

/-- `write32` (R64). -/
def State.write32 (s : State) (a : Word) (v : Nat) : State := { s with mem := s.mem.write32 s.cfg a v }

/-- Append an event to REPORTS (R39, R191). -/
def State.report (s : State) (r : Report) : State := { s with reports := s.reports ++ [r] }

/-- Taking the one synchronous exceptional condition (R190 to R193): `raise UnrecognizedOpcode(pc, byte)`, then the one-byte skip.
It transfers no control, saves nothing and changes no mode; there is no return from it (R217). -/
def State.takeUnrecognized (s : State) (byte : Byte) : State :=
  (s.report (.unrecognizedOpcode s.pc byte)).advancePc 1

/-- `mem.reset()` (R65). -/
def State.memReset (s : State) : State := { s with mem := s.mem.resetRam s.cfg }

/-- `load(data, offset)` (R66): copies, or reports `LoadOutOfWindow`. -/
def State.load (s : State) (data : List Byte) (offset : Nat) : State :=
  match s.mem.load s.cfg data offset with
  | some m => { s with mem := m }
  | none => s.report (.loadOutOfWindow offset data.length)

/-- `cpu.reset()` (R261): CPU state only (R262; decision D10, log 10). -/
def State.cpuReset (s : State) : State :=
  { s with
    regs := resetRegs
    acc := resetAcc
    psw := resetPsw
    usp := resetUsp
    isp := s.cfg.ispReset
    pc := s.read32 s.cfg.resetVectorAddr }

/-- The decoder at pc: byte `k` is `read8(u32(pc + k))` (R97, R131). -/
def State.fetchDecode (s : State) : Decoded := decode (fun k => s.read8 (s.pc + BitVec.ofNat 32 k))

/-- The cycle cost `step()` returns from this state (R134, R281): a return value, kept beside the outcome (log 32). -/
def State.stepCycles (s : State) : Nat := s.fetchDecode.cycles

end Sys2Proof.Machine
end

