-- ==== Sys2Proof/Machine/Operands.lean ====
section
/-! DEFINITION. The two operand forms, immediate and register direct (spec/44_absent_families.md R177; spec/30_encoding.md R95, R96), and
what every data instruction does with its result (spec/40_execution_cycle.md R130, R139, R140). -/

namespace Sys2Proof.Machine

/-- The only addressing modes (R177). -/
inductive Operand where
  /-- `#imm32`, used as a 32-bit pattern, neither extended nor scaled (R96). -/
  | imm (v : Word)
  /-- `Rn` (R95). -/
  | reg (r : RegIdx)
  deriving DecidableEq, Repr

/-- The 32-bit value of a source operand. -/
def State.readOperand (s : State) : Operand → Word
  | .imm v => v
  | .reg r => s.readReg r

/-- `x[d] <- v; setZS(v)`, common to the three data instructions (R130, R139). -/
def State.writeResult (s : State) (d : RegIdx) (v : Word) : State := (s.writeReg d v).setZS v

/-- 32-bit addition modulo 2^32, no carry and no overflow computed (R141). -/
def add32 (a b : Word) : Word := a + b

end Sys2Proof.Machine
end

