-- ==== Sys2Proof/Machine/Add.lean ====
section
/-! DEFINITION. ADD.L #imm32, Rd (spec/43_add.md R165). -/

namespace Sys2Proof.Machine

/-- ADD.L #imm32, Rd: `x[d] <- u32(x[d] + imm32); setZS(result); pc <- u32(pc + 6)`; C and O are not written (R165). -/
def execAddImm (d : RegIdx) (imm32 : Word) (s : State) : Host.Outcome State Fault Refusal :=
  .next ((s.writeResult d (add32 (s.readOperand (.reg d)) (s.readOperand (.imm imm32)))).advancePc 6)

end Sys2Proof.Machine
end

