-- ==== Sys2Proof/Machine/Mov.lean ====
section
/-! DEFINITION. The two MOV.L instructions (spec/42_mov.md R155, R156). -/

namespace Sys2Proof.Machine

/-- MOV.L #imm32, Rd: `x[d] <- imm32; setZS(x[d]); pc <- u32(pc + 7)` (R155). -/
def execMovImm (d : RegIdx) (imm32 : Word) (s : State) : Host.Outcome State Fault Refusal :=
  .next ((s.writeResult d (s.readOperand (.imm imm32))).advancePc 7)

/-- MOV.L Rs, Rd: `x[d] <- x[s]; setZS(x[d]); pc <- u32(pc + 2)` (R156). -/
def execMovReg (rs d : RegIdx) (s : State) : Host.Outcome State Fault Refusal :=
  .next ((s.writeResult d (s.readOperand (.reg rs))).advancePc 2)

end Sys2Proof.Machine
end

