-- ==== Sys2Proof/Machine/Nop.lean ====
section
/-! DEFINITION. NOP (spec/41_nop.md R150). -/

namespace Sys2Proof.Machine

/-- NOP: the handler does nothing; pc advances by 1 (R150). -/
def execNop (s : State) : Host.Outcome State Fault Refusal := .next (s.advancePc 1)

end Sys2Proof.Machine
end

