-- ==== Sys2Proof/Machine/Dispatch.lean ====
section
/-! DEFINITION. The dispatch of the four instructions to their meanings, one arm per constructor of Instr. -/

namespace Sys2Proof.Machine

def exec (i : Instr) (s : State) : Host.Outcome State Fault Refusal :=
  match i with
  | .nop => Sys2Proof.Machine.execNop s
  | .movImm d imm32 => Sys2Proof.Machine.execMovImm d imm32 s
  | .movReg rs d => Sys2Proof.Machine.execMovReg rs d s
  | .addImm d imm32 => Sys2Proof.Machine.execAddImm d imm32 s

end Sys2Proof.Machine
end

