-- ==== Sys2Proof/Machine/Placement.lean ====
section
/-! DEFINITION. Placing an instruction where the next step fetches it: what `State.withFetchWord` calls (log 31). -/

namespace Sys2Proof.Machine

/-- Writing these bytes from address `a` on makes the decoder read them back: each address is mapped, or the byte is the 0 that an
unmapped address reads as (R54). -/
def State.canHold (s : State) (a : Word) : List Byte → Bool
  | [] => true
  | b :: bs => (decide (s.cfg.Mapped a.toNat) || b == 0) && State.canHold s (a + 1) bs

/-- Write bytes at consecutive addresses, through the decoder's own byte write (R62). -/
def State.writeBytes (s : State) (a : Word) : List Byte → State
  | [] => s
  | b :: bs => State.writeBytes (s.write8 a b.toNat) (a + 1) bs

/-- Where a program is placed when pc points where nothing can be stored: the first address of ROM, or of RAM where ROM is shorter
than the longest instruction. It stands for the host's choice of a load offset (R74, R270). -/
def State.programStart (s : State) : Word :=
  if s.cfg.romStart.toNat + maxLength ≤ s.cfg.romEnd.toNat + 1 then s.cfg.romStart else s.cfg.ramStart

/-- The state whose next step fetches these bytes. Where pc points into unmapped space, as it does after reset with an unseeded
reset vector (95_test_vectors.md P2), pc moves to `programStart`, as the host's launch does it (R270). -/
def State.placeInstruction (s : State) (bs : List Byte) : State :=
  if s.canHold s.pc bs then s.writeBytes s.pc bs
  else { s with pc := s.programStart }.writeBytes s.programStart bs

end Sys2Proof.Machine
end

