-- ==== Sys2Proof/Machine/Step.lean ====
section
/-! DEFINITION. One step of the CPU, `cpu.step()` (spec/40_execution_cycle.md R130 to R136), and `State.withFetchWord`. -/

namespace Sys2Proof.Machine

/-- `cpu.step()` (R130): run the instruction at pc, or report and skip the unrecognized byte there. It samples no interrupt (R143)
and ticks no timer (R221). The cycle cost it returns is `State.stepCycles`. -/
def step (s : State) : Host.Outcome State Fault Refusal :=
  match s.fetchDecode with
  | .instr i => exec i s
  | .unrecognized b => .next (s.takeUnrecognized b)

/-- `s` with the instruction of a table word placed where `step` fetches next (log 30, log 31). -/
def State.withFetchWord (s : State) (nbits w : Nat) : State := s.placeInstruction (tableBytes nbits w)

end Sys2Proof.Machine
end

