-- ==== Sys2Proof/Machine/Assembler.lean ====
section
/-! DEFINITION. The assembler, its error rules and the disassembly spelling (spec/30_encoding.md R104 to R114), and the host's launch
(spec/70_reset_and_hazards.md R270 to R272). Source text is a list of characters. -/

namespace Sys2Proof.Machine

/-- Cut a text at every occurrence of a separator (lines, R104; operands, R105). -/
def splitAtChar (sep : Char) : List Char → List (List Char)
  | [] => [[]]
  | c :: cs =>
    if c = sep then [] :: splitAtChar sep cs
    else
      match splitAtChar sep cs with
      | [] => [[c]]
      | w :: ws => (c :: w) :: ws

/-- Remove leading and trailing white space (R104, R105; decision D8, log 8; which characters are white space, log 34). -/
def trimText (cs : List Char) : List Char :=
  ((cs.dropWhile Char.isWhitespace).reverse.dropWhile Char.isWhitespace).reverse

/-- The mnemonic token and the raw operand string, cut at the first space; `none` where there is no space (R105). -/
def splitFirstSpace : List Char → List Char × Option (List Char)
  | [] => ([], none)
  | c :: cs => if c = ' ' then ([], some cs) else ((c :: (splitFirstSpace cs).1), (splitFirstSpace cs).2)

/-- The operands: split on commas and trimmed; none where there is no operand string (R105). -/
def splitOperands : Option (List Char) → List (List Char)
  | none => []
  | some cs => (splitAtChar ',' cs).map trimText

/-- Operand classes, purely from lexical shape (R106). -/
inductive OperandClass where
  | immediate
  | register
  | unknown
  deriving DecidableEq, Repr

/-- R106: a leading `#`; a leading `R` or the literals SP and PC; anything else. The text is upper-cased already (R104). -/
def classify (cs : List Char) : OperandClass :=
  match cs with
  | '#' :: _ => .immediate
  | 'R' :: _ => .register
  | ['S', 'P'] => .register
  | ['P', 'C'] => .register
  | _ => .unknown

/-- The value of a numeral's digit in a base, for digits 0 to 9 and A to F. -/
def digitValue (base : Nat) (c : Char) : Option Nat :=
  let v := if '0' ≤ c ∧ c ≤ '9' then some (c.toNat - '0'.toNat)
    else if 'A' ≤ c ∧ c ≤ 'F' then some (c.toNat - 'A'.toNat + 10) else none
  match v with
  | some d => if d < base then some d else none
  | none => none

/-- The digits after those read into `acc`. -/
def parseDigits (base : Nat) : Nat → List Char → Option Nat
  | acc, [] => some acc
  | acc, c :: cs =>
    match digitValue base c with
    | some d => parseDigits base (acc * base + d) cs
    | none => none

/-- A numeral has at least one digit (R108; decision D8, log 8). -/
def parseNumeral (base : Nat) (cs : List Char) : Option Nat :=
  if cs.isEmpty then none else parseDigits base 0 cs

/-- Immediate parsing: strip `#`; a 0X prefix is hexadecimal, otherwise decimal; the value is `u32(value)` (R108). -/
def parseImmediate (cs : List Char) : Option Word :=
  match cs with
  | '#' :: '0' :: 'X' :: rest => (parseNumeral 16 rest).map (BitVec.ofNat 32)
  | '#' :: rest => (parseNumeral 10 rest).map (BitVec.ofNat 32)
  | _ => none

/-- Register parsing: SP is 0, `R<n>` is n for n in 0..15, anything else fails (R109). -/
def parseRegister (cs : List Char) : Option RegIdx :=
  match cs with
  | ['S', 'P'] => some 0
  | 'R' :: rest =>
    match parseNumeral 10 rest with
    | some n => if n ≤ 15 then some (BitVec.ofNat 4 n) else none
    | none => none
  | _ => none

/-- Why a line contributes an error (R111); the description text is not specified, so the reason is a name (log 34). -/
inductive AsmReason where
  /-- The line matches no instruction and operand signature (R111). -/
  | noMatch
  /-- The register token is not encodable (R109, R111). -/
  | badRegister
  /-- The immediate is no valid numeral of its base (R108; decision D8, log 8). -/
  | badImmediate
  deriving DecidableEq, Repr

/-- What a line is: blank or comment, one instruction, or an error (R104, R111). -/
inductive LineResult where
  | skip
  | instr (i : Instr)
  | error (r : AsmReason)
  deriving DecidableEq, Repr

/-- An immediate and a register, in source order (R107: the destination is the last operand). -/
def buildImmReg (mk : RegIdx → Word → Instr) : List (List Char) → LineResult
  | [a, b] =>
    match parseImmediate a, parseRegister b with
    | some v, some d => .instr (mk d v)
    | none, _ => .error .badImmediate
    | some _, none => .error .badRegister
  | _ => .error .noMatch

/-- Two registers, source first (R107). -/
def buildRegReg (mk : RegIdx → RegIdx → Instr) : List (List Char) → LineResult
  | [a, b] =>
    match parseRegister a, parseRegister b with
    | some rs, some d => .instr (mk rs d)
    | _, _ => .error .badRegister
  | _ => .error .noMatch

/-- One entry of the instruction table (R107). -/
structure AsmEntry where
  mnemonic : List Char
  signature : List OperandClass
  build : List (List Char) → LineResult

/-- The instruction table in registration order (R107; the mnemonic NOP is decision D8, log 8). -/
def asmTable : List AsmEntry :=
  [{ mnemonic := ['N', 'O', 'P'], signature := [], build := fun _ => .instr .nop },
   { mnemonic := ['M', 'O', 'V', '.', 'L'], signature := [.immediate, .register], build := buildImmReg Instr.movImm },
   { mnemonic := ['M', 'O', 'V', '.', 'L'], signature := [.register, .register], build := buildRegReg Instr.movReg },
   { mnemonic := ['A', 'D', 'D', '.', 'L'], signature := [.immediate, .register], build := buildImmReg Instr.addImm }]

/-- "the first match's encoder is invoked" (R107). -/
def searchTable (mnemonic : List Char) (operands : List (List Char)) : List AsmEntry → LineResult
  | [] => .error .noMatch
  | e :: es =>
    if e.mnemonic = mnemonic ∧ e.signature = operands.map classify then e.build operands
    else searchTable mnemonic operands es

/-- A trimmed, upper-cased line that is neither blank nor a comment. -/
def assembleInstruction (cs : List Char) : LineResult :=
  searchTable (splitFirstSpace cs).1 (splitOperands (splitFirstSpace cs).2) asmTable

/-- One source line: upper-case, trim, skip blank and comment lines (R104; comment marker `;`, decision D8, log 8). -/
def assembleLine (line : List Char) : LineResult :=
  match trimText (line.map Char.toUpper) with
  | [] => .skip
  | ';' :: _ => .skip
  | cs => assembleInstruction cs

/-- A line-tagged error (R111). -/
structure AsmError where
  line : Nat
  reason : AsmReason
  deriving DecidableEq, Repr

/-- A reason in words; the wording is the model's (R111; log 34). -/
def AsmReason.text : AsmReason → String
  | .noMatch => "no instruction with this mnemonic and these operands"
  | .badRegister => "register not encodable"
  | .badImmediate => "malformed immediate"

/-- The per-line message `Line <n>: <description>` (R111). -/
def AsmError.message (e : AsmError) : String := "Line " ++ toString e.line ++ ": " ++ e.reason.text

/-- `{code, errors}` (R110). -/
structure AsmResult where
  code : List Byte
  errors : List AsmError
  deriving DecidableEq, Repr

/-- Lines numbered from `n` on; a line with an error contributes no bytes and every other line still assembles (R110, R111). -/
def assembleLines : Nat → List (List Char) → AsmResult
  | _, [] => { code := [], errors := [] }
  | n, l :: ls =>
    let rest := assembleLines (n + 1) ls
    match assembleLine l with
    | .skip => rest
    | .instr i => { code := encode i ++ rest.code, errors := rest.errors }
    | .error r => { code := rest.code, errors := { line := n, reason := r } :: rest.errors }

/-- `assemble(sourceText)` (R110): newline-delimited (R104), lines numbered from 1 (decision D8, log 8). -/
def assemble (source : List Char) : AsmResult := assembleLines 1 (splitAtChar '\n' source)

/-- The instructions a source text spells, in order, its error lines left out. -/
def sourceInstrs (source : List Char) : List Instr :=
  (splitAtChar '\n' source).filterMap fun l =>
    match assembleLine l with
    | .instr i => some i
    | .skip => none
    | .error _ => none

/-- One upper-case hexadecimal digit (log 39). -/
def hexDigit (n : Nat) : Char := if n < 10 then Char.ofNat (48 + n) else Char.ofNat (55 + n)

/-- `0x` and `k` hexadecimal digits, the most significant first. -/
def hexText (k v : Nat) : List Char :=
  '0' :: 'x' :: ((List.range k).map fun j => hexDigit ((v >>> (4 * (k - 1 - j))) % 16))

/-- `R` and the index in decimal (R114). -/
def regText (r : RegIdx) : List Char :=
  if r.toNat < 10 then ['R', hexDigit r.toNat] else ['R', '1', hexDigit (r.toNat - 10)]

/-- The spelling of a decoded unit (R114); `.byte` is a notation of the spec, not accepted by the assembler. -/
def disassemble : Decoded → List Char
  | .instr .nop => ['N', 'O', 'P']
  | .instr (.movImm d v) => ['M', 'O', 'V', '.', 'L', ' ', '#'] ++ hexText 8 v.toNat ++ [',', ' '] ++ regText d
  | .instr (.movReg rs d) => ['M', 'O', 'V', '.', 'L', ' '] ++ regText rs ++ [',', ' '] ++ regText d
  | .instr (.addImm d v) => ['A', 'D', 'D', '.', 'L', ' ', '#'] ++ hexText 8 v.toNat ++ [',', ' '] ++ regText d
  | .unrecognized b => ['.', 'b', 'y', 't', 'e', ' '] ++ hexText 2 b.toNat

/-- The host's launch (R270 to R272): refuse a source with errors; load the code at `offset`; seed the reset-vector slot with the
offset, least significant byte first; `cpu.reset()`. R270 says only that the seeded value is "typically the load offset of assembled
code"; that it is the offset here is a DESIGN CHOICE (log 31). -/
def launch (source : List Char) (offset : Nat) (s : State) : Option State :=
  let r := assemble source
  if r.errors.isEmpty then
    some (((s.load r.code offset).load [byteOf offset 0, byteOf offset 1, byteOf offset 2, byteOf offset 3]
      s.cfg.resetVectorAddr.toNat).cpuReset)
  else none

end Sys2Proof.Machine
end

