-- ==== Sys2Proof/Machine/GpioUnit.lean ====
section
/-! DEFINITION. The GPIO register file and its host-side helpers (spec/60_exceptions.md R235 to R239). -/

namespace Sys2Proof.Machine

/-- `read8(0) = DIR`, `read8(1) = OUT`, `read8(2) = IN`, 0 elsewhere (R236; offsets by decision D16, log 16). -/
def Gpio.read8 (g : Gpio) (o : Nat) : Byte :=
  match o with
  | 0 => g.DIR
  | 1 => g.OUT
  | 2 => g.IN
  | _ => 0

/-- DIR and OUT are written; a bus write to IN and to an undefined offset does nothing (R236; decision D16, log 16). -/
def Gpio.write8 (g : Gpio) (o : Nat) (v : Byte) : Gpio :=
  match o with
  | 0 => { g with DIR := v }
  | 1 => { g with OUT := v }
  | _ => g

/-- `setInputBit(bit, value)` (R237): drives one pin from outside; bits above 7 do nothing. -/
def Gpio.setInputBit (g : Gpio) (bit value : Nat) : Gpio :=
  if bit ≤ 7 then
    if value ≠ 0 then { g with IN := g.IN ||| (1#8 <<< bit) } else { g with IN := g.IN &&& ~~~(1#8 <<< bit) }
  else g

/-- `getOutputBit(bit)` (R238): `OUT[bit]` whatever DIR is, 0 above 7. -/
def Gpio.getOutputBit (g : Gpio) (bit : Nat) : Bool := if bit ≤ 7 then g.OUT.getLsbD bit else false

end Sys2Proof.Machine
end

