-- ==== Sys2Proof/Machine/SerialUnit.lean ====
section
/-! DEFINITION. The serial-transmit block (spec/60_exceptions.md R246 to R249). -/

namespace Sys2Proof.Machine

/-- `read8(o) = 0` for every offset (R248). -/
def Serial.read8 (_ : Serial) (_ : Nat) : Byte := 0

/-- A write to offset 0 appends one character; every other offset is undefined (R246, R247; decision D17, log 17). -/
def Serial.write8 (p : Serial) (o : Nat) (v : Byte) : Serial :=
  if o = 0 then { p with LOG := p.LOG ++ [v] } else p

/-- `reset()` has no register to clear and keeps LOG (R249; decision D17, log 17). -/
def Serial.reset (p : Serial) : Serial := p

end Sys2Proof.Machine
end

