-- ==== Sys2Proof/Machine/InterruptController.lean ====
section
/-! DEFINITION. The interrupt controller: pending queue, priority order, vector resolution (spec/60_exceptions.md R200 to R212). The CPU
never consults it (R143, R215). -/

namespace Sys2Proof.Machine

/-- The queue after a request, R202's own pseudocode: behind the `k` pending requests of priority at least its own. -/
def insertRequest (r : InterruptRequest) (q : List InterruptRequest) : List InterruptRequest :=
  let k := q.countP (fun p => decide (r.priority ≤ p.priority))
  q.take k ++ [r] ++ q.drop k

/-- `requestInterrupt(vector, priority, source)` (R202): always succeeds; identical requests are counted, not merged (R206). -/
def State.requestInterrupt (s : State) (r : InterruptRequest) : State :=
  { s with pending := insertRequest r s.pending }

/-- `hasPending()` (R204). -/
def State.hasPending (s : State) : Bool := !s.pending.isEmpty

/-- `popNext()` (R205): the first request, or none; what is left. -/
def State.popNext (s : State) : Option InterruptRequest × State :=
  match s.pending with
  | [] => (none, s)
  | r :: rest => (some r, { s with pending := rest })

/-- `n` calls of `popNext()`: the requests delivered, in order, and what is left (R205, R212). -/
def State.popMany : Nat → State → List InterruptRequest × State
  | 0, s => ([], s)
  | n + 1, s =>
    match s.popNext with
    | (none, t) => ([], t)
    | (some r, t) => (r :: (State.popMany n t).1, (State.popMany n t).2)

/-- `getVectorAddress(vector) = u32(VECTOR_TABLE_BASE + 4 * vector)` (R208; the wrap is decision D1, log 1). -/
def State.getVectorAddress (s : State) (vector : Nat) : Word :=
  BitVec.ofNat 32 (s.cfg.vectorTableBase.toNat + 4 * vector)

/-- `resolveVector(vector) = read32(getVectorAddress(vector))` (R209). -/
def State.resolveVector (s : State) (vector : Nat) : Word := s.read32 (s.getVectorAddress vector)

/-- R203: priorities are non-increasing from front to back. -/
abbrev PendingSorted (q : List InterruptRequest) : Prop := q.Pairwise (fun a b => b.priority ≤ a.priority)

end Sys2Proof.Machine
end

