-- ==== Sys2Proof/Machine/TimerUnit.lean ====
section
/-! DEFINITION. The timer and its interrupt trigger (spec/60_exceptions.md R225 to R230). -/

namespace Sys2Proof.Machine

/-- The timer is enabled when `EN[0] == 1` (R225; decision D14, log 14). -/
def Timer.enabled (t : Timer) : Bool := t.EN.getLsbD 0

/-- The timer is interrupt-enabled when `IEN[0] == 1` (R225; decision D14, log 14). -/
def Timer.interruptEnabled (t : Timer) : Bool := t.IEN.getLsbD 0

/-- The byte of R226 at offset `o` (R227); undefined offsets read 0 (R219). -/
def Timer.read8 (t : Timer) (o : Nat) : Byte :=
  if o < 4 then byteOf t.CNT.toNat o
  else if o < 8 then byteOf t.CMP.toNat (o - 4)
  else if o = 8 then t.EN
  else if o = 9 then t.IEN
  else 0

/-- Replaces exactly the byte of R226 at offset `o`; compares nothing, raises nothing (R227; decision D15, log 15). -/
def Timer.write8 (t : Timer) (o : Nat) (v : Byte) : Timer :=
  if o < 4 then { t with CNT := setByte t.CNT o v }
  else if o < 8 then { t with CMP := setByte t.CMP (o - 4) v }
  else if o = 8 then { t with EN := v }
  else if o = 9 then { t with IEN := v }
  else t

/-- The timer's request: `{TIMER_VECTOR, 3, TIMER}` (R228; decision D13, log 13). -/
def State.timerRequest (s : State) : InterruptRequest :=
  { vector := s.cfg.timerVector.toNat, priority := timerPriority, source := .timer }

/-- The unwrapped sum reaches the compare-reload value (R228; decision D15, log 15). -/
def Timer.hitsCompare (t : Timer) (cycles : Nat) : Bool := decide (t.CMP.toNat ≤ t.CNT.toNat + cycles)

/-- `timer.tick(cycles)` (R228): one conditional add, one comparison, one atomic operation. -/
def State.timerTick (s : State) (cycles : Nat) : State :=
  if s.timer.enabled then
    if s.timer.hitsCompare cycles then
      if s.timer.interruptEnabled then
        { s with timer := { s.timer with CNT := 0 } }.requestInterrupt s.timerRequest
      else { s with timer := { s.timer with CNT := 0 } }
    else { s with timer := { s.timer with CNT := BitVec.ofNat 32 (s.timer.CNT.toNat + cycles) } }
  else s

end Sys2Proof.Machine
end

