-- ==== Sys2Proof/Machine/Peripherals.lean ====
section
/-! DEFINITION. The peripheral contract: reset, read8/16/32, write8/16/32, tick (spec/60_exceptions.md R218 to R221). Offsets are natural
numbers, private to a peripheral, neither wrapped nor aligned; no global address reaches them (R57, R218). -/

namespace Sys2Proof.Machine

/-- The three instances (R2, R34). -/
inductive Peripheral where
  | gpio
  | timer
  | serial
  deriving DecidableEq, Repr

/-- The access widths of the decoder and the peripherals (R12, R71, R219). -/
inductive Width where
  | w8
  | w16
  | w32
  deriving DecidableEq, Repr

/-- `n` of `MemRead(addr, n)` (R12). -/
def Width.bytes : Width → Nat
  | .w8 => 1
  | .w16 => 2
  | .w32 => 4

/-- `read8(offset)` of a peripheral (R219); no read has a side effect (R227, R236, R248). -/
def State.periphRead8 (s : State) (p : Peripheral) (o : Nat) : Byte :=
  match p with
  | .gpio => s.gpio.read8 o
  | .timer => s.timer.read8 o
  | .serial => s.serial.read8 o

/-- `write8(offset, value)` of a peripheral; the value is cut to 8 bits (R219; decision D25, log 25). -/
def State.periphWrite8 (s : State) (p : Peripheral) (o v : Nat) : State :=
  match p with
  | .gpio => { s with gpio := s.gpio.write8 o (byteOf v 0) }
  | .timer => { s with timer := s.timer.write8 o (byteOf v 0) }
  | .serial => { s with serial := s.serial.write8 o (byteOf v 0) }

/-- `read16(o) = read8(o) | read8(o+1) << 8` (R220). -/
def State.periphRead16 (s : State) (p : Peripheral) (o : Nat) : BitVec 16 :=
  le16 (s.periphRead8 p o) (s.periphRead8 p (o + 1))

/-- `read32`, composed from bytes (R220). -/
def State.periphRead32 (s : State) (p : Peripheral) (o : Nat) : Word :=
  le32 (s.periphRead8 p o) (s.periphRead8 p (o + 1)) (s.periphRead8 p (o + 2)) (s.periphRead8 p (o + 3))

/-- `write16`: bytes in ascending offset order (R220; decision D24, log 24). -/
def State.periphWrite16 (s : State) (p : Peripheral) (o v : Nat) : State :=
  (s.periphWrite8 p o (v >>> 0)).periphWrite8 p (o + 1) (v >>> 8)

/-- `write32`: bytes in ascending offset order (R220; decision D24, log 24). -/
def State.periphWrite32 (s : State) (p : Peripheral) (o v : Nat) : State :=
  (((s.periphWrite8 p o (v >>> 0)).periphWrite8 p (o + 1) (v >>> 8)).periphWrite8 p (o + 2) (v >>> 16)).periphWrite8 p (o + 3)
    (v >>> 24)

/-- A peripheral's `reset()` (R230, R239, R249); requests already queued stay (R206, R230). -/
def State.periphReset (s : State) (p : Peripheral) : State :=
  match p with
  | .gpio => { s with gpio := resetGpio }
  | .timer => { s with timer := resetTimer }
  | .serial => { s with serial := s.serial.reset }

/-- A peripheral's `tick(cycles)`: only the timer has time-dependent state (R221, R228, R239, R249). -/
def State.periphTick (s : State) (p : Peripheral) (cycles : Nat) : State :=
  match p with
  | .gpio => s
  | .timer => s.timerTick cycles
  | .serial => s

/-- `MemRead(addr, n)` as a number (R12). -/
def State.memRead (s : State) (w : Width) (a : Word) : Nat :=
  match w with
  | .w8 => (s.read8 a).toNat
  | .w16 => (s.read16 a).toNat
  | .w32 => (s.read32 a).toNat

/-- `MemWrite(addr, n, v)` (R12). -/
def State.memWrite (s : State) (w : Width) (a : Word) (v : Nat) : State :=
  match w with
  | .w8 => s.write8 a v
  | .w16 => s.write16 a v
  | .w32 => s.write32 a v

/-- A peripheral read of any width, as a number (R219, R220). -/
def State.periphRead (s : State) (p : Peripheral) (w : Width) (o : Nat) : Nat :=
  match w with
  | .w8 => (s.periphRead8 p o).toNat
  | .w16 => (s.periphRead16 p o).toNat
  | .w32 => (s.periphRead32 p o).toNat

/-- A peripheral write of any width (R219, R220). -/
def State.periphWrite (s : State) (p : Peripheral) (w : Width) (o v : Nat) : State :=
  match w with
  | .w8 => s.periphWrite8 p o v
  | .w16 => s.periphWrite16 p o v
  | .w32 => s.periphWrite32 p o v

end Sys2Proof.Machine
end

