-- ==== Sys2Proof/Machine/Run.lean ====
section
/-! DEFINITION. `cpu.run(n)` (spec/40_execution_cycle.md R137, R138). -/

namespace Sys2Proof.Machine

/-- What a run reaches: the state, the cycles accumulated and the steps taken. The two counts live only during the call (R42, R138). -/
structure RunResult where
  state : State
  total : Nat
  steps : Nat
  deriving DecidableEq, Repr

/-- The loop `while total < n: total <- total + step()` (R137) with at most `fuel` steps. -/
def runLoop (n : Nat) : Nat → RunResult → Host.Outcome RunResult Fault Refusal
  | 0, r => .next r
  | fuel + 1, r =>
    if r.total < n then
      match step r.state with
      | .next s' => runLoop n fuel { state := s', total := r.total + r.state.stepCycles, steps := r.steps + 1 }
      | .fault f => .fault f
      | .refused f => .refused f
    else .next r

/-- `cpu.run(n)` with its counts. Every step costs at least 1, so `n` steps of fuel never cut the loop short (R137). -/
def runCounted (n : Nat) (s : State) : Host.Outcome RunResult Fault Refusal :=
  runLoop n n { state := s, total := 0, steps := 0 }

/-- `cpu.run(n)` (R137): it returns nothing but the state. -/
def run (n : Nat) (s : State) : Host.Outcome State Fault Refusal :=
  match runCounted n s with
  | .next r => .next r.state
  | .fault f => .fault f
  | .refused f => .refused f

end Sys2Proof.Machine
end

