-- ==== Sys2Proof/Machine/Snapshot.lean ====
section
/-! DEFINITION. The snapshot, the only way the host observes CPU state (spec/10_state.md R40; spec/70_reset_and_hazards.md R283). -/

namespace Sys2Proof.Machine

/-- "an immutable copy of pc, usp, isp, 16 registers, 8 PSW fields" (R40); acc, memory, queue and peripherals are not in it. -/
structure Snapshot where
  pc : Word
  usp : Word
  isp : Word
  regs : Vector Word 16
  psw : PSW
  deriving DecidableEq, Repr

/-- The snapshot of a state (R40). -/
def State.snapshot (s : State) : Snapshot := { pc := s.pc, usp := s.usp, isp := s.isp, regs := s.regs, psw := s.psw }

end Sys2Proof.Machine
end

