-- ==== Sys2Proof/Machine/HostOps.lean ====
section
/-! DEFINITION. The complete operation list of the hardware and what each answers (spec/00_scope.md R8, R9); schedules of operations
(spec/70_reset_and_hazards.md R282). -/

namespace Sys2Proof.Machine

/-- Every operation of every block (R9). Operations are atomic and serialised: a list of them is all a host can do (R8, R276; log 38). -/
inductive HostOp where
  /-- `cpu.reset()` (R261). -/
  | cpuReset
  /-- `cpu.step()` (R130). -/
  | cpuStep
  /-- `cpu.run(n)` (R137). -/
  | cpuRun (n : Nat)
  /-- The read-only snapshot (R40). -/
  | snapshot
  /-- `read8/16/32(addr)` (R59 to R61). -/
  | memRead (w : Width) (a : Word)
  /-- `write8/16/32(addr, value)` (R62 to R64). -/
  | memWrite (w : Width) (a : Word) (v : Nat)
  /-- `mem.reset()` (R65). -/
  | memReset
  /-- `load(bytes, offset)` (R66). -/
  | load (data : List Byte) (offset : Nat)
  /-- `requestInterrupt(vector, priority, source)` (R202). -/
  | requestInterrupt (r : InterruptRequest)
  /-- `hasPending()` (R204). -/
  | hasPending
  /-- `popNext()` (R205). -/
  | popNext
  /-- `getVectorAddress(vector)` (R208). -/
  | getVectorAddress (vector : Nat)
  /-- `resolveVector(vector)` (R209). -/
  | resolveVector (vector : Nat)
  /-- A peripheral's `reset()` (R219). -/
  | periphReset (p : Peripheral)
  /-- A peripheral's `read8/16/32(offset)` (R219, R220). -/
  | periphRead (p : Peripheral) (w : Width) (o : Nat)
  /-- A peripheral's `write8/16/32(offset, value)` (R219, R220). -/
  | periphWrite (p : Peripheral) (w : Width) (o v : Nat)
  /-- A peripheral's `tick(cycles)` (R221). -/
  | periphTick (p : Peripheral) (cycles : Nat)
  /-- `setInputBit(bit, value)` (R237). -/
  | setInputBit (bit value : Nat)
  /-- `getOutputBit(bit)` (R238). -/
  | getOutputBit (bit : Nat)
  /-- The serial block's output log (R38). -/
  | readLog
  deriving DecidableEq, Repr

/-- What an operation returns to the host (R9). -/
inductive Response where
  | nothing
  /-- The cycle cost of a step, and the snapshot taken after it (R40, R134). -/
  | stepped (cycles : Nat) (snap : Snapshot)
  | snapshot (snap : Snapshot)
  | value (v : Nat)
  | flag (b : Bool)
  | request (r : Option InterruptRequest)
  | log (bytes : List Byte)
  deriving DecidableEq, Repr

/-- An operation served. Only `cpu.step()` and `cpu.run(n)` go through the CPU's `step`. -/
def serve (op : HostOp) (s : State) : Host.Outcome (State × Response) Fault Refusal :=
  match op with
  | .cpuReset => .next (s.cpuReset, .snapshot s.cpuReset.snapshot)
  | .cpuStep =>
    match step s with
    | .next t => .next (t, .stepped s.stepCycles t.snapshot)
    | .fault f => .fault f
    | .refused f => .refused f
  | .cpuRun n =>
    match run n s with
    | .next t => .next (t, .snapshot t.snapshot)
    | .fault f => .fault f
    | .refused f => .refused f
  | .snapshot => .next (s, .snapshot s.snapshot)
  | .memRead w a => .next (s, .value (s.memRead w a))
  | .memWrite w a v => .next (s.memWrite w a v, .nothing)
  | .memReset => .next (s.memReset, .nothing)
  | .load data offset => .next (s.load data offset, .nothing)
  | .requestInterrupt r => .next (s.requestInterrupt r, .nothing)
  | .hasPending => .next (s, .flag s.hasPending)
  | .popNext => .next (s.popNext.2, .request s.popNext.1)
  | .getVectorAddress v => .next (s, .value (s.getVectorAddress v).toNat)
  | .resolveVector v => .next (s, .value (s.resolveVector v).toNat)
  | .periphReset p => .next (s.periphReset p, .nothing)
  | .periphRead p w o => .next (s, .value (s.periphRead p w o))
  | .periphWrite p w o v => .next (s.periphWrite p w o v, .nothing)
  | .periphTick p c => .next (s.periphTick p c, .nothing)
  | .setInputBit bit value => .next ({ s with gpio := s.gpio.setInputBit bit value }, .nothing)
  | .getOutputBit bit => .next (s, .flag (s.gpio.getOutputBit bit))
  | .readLog => .next (s, .log s.serial.LOG)

/-- A schedule: operations served in order, stopping where one does not answer a next state (R8; SYSTEM_SCHEDULE, R282, log 23). -/
def serveAll : List HostOp → State → Host.Outcome State Fault Refusal
  | [], s => .next s
  | op :: ops, s =>
    match serve op s with
    | .next r => serveAll ops r.1
    | .fault f => .fault f
    | .refused f => .refused f

/-- The reference schedule of R282, one round: `c <- cpu.step()`, then `timer.tick(c)`. -/
def stepThenTick (s : State) : Host.Outcome State Fault Refusal :=
  match step s with
  | .next t => .next (t.timerTick s.stepCycles)
  | .fault f => .fault f
  | .refused f => .refused f

end Sys2Proof.Machine
end

