-- ==== Sys2Proof/Safety.lean ====
section
/-! DEFINITION. What counts as a good state and a clean run, in the terms the statements use. -/

namespace Sys2Proof

open Machine

/-- The system invariant: valid parameters (R6), canonical memory, the queue in priority order (R203). -/
abbrev Machine.State.Inv (s : State) : Prop := s.cfg.Valid ∧ s.mem.wf s.cfg ∧ PendingSorted s.pending

/-- The CPU state that only `cpu.reset()` writes holds its reset values: interrupts disabled, interrupt stack, supervisor mode, IPL 0,
O and C clear, usp, isp and acc as reset left them (R27, R28, R30, R31, R222). -/
abbrev Machine.State.ControlAtReset (s : State) : Prop :=
  s.psw.I = false ∧ s.psw.U = false ∧ s.psw.PM = .supervisor ∧ s.psw.IPL = 0 ∧ s.psw.O = false ∧ s.psw.C = false ∧
    s.usp = resetUsp ∧ s.isp = s.cfg.ispReset ∧ s.acc = resetAcc

/-- Z and S are never both 1 (R139). -/
abbrev Machine.State.FlagsConsistent (s : State) : Prop := ¬ (s.psw.Z = true ∧ s.psw.S = true)

/-- A clean step or run: no unrecognized byte was executed, stated as U1 of 93_implementation_defined.md asks, by REPORTS being
unchanged. -/
abbrev CleanBetween (s t : State) : Prop := t.reports = s.reports

/-- The bytes at pc are the encoding of `i`. -/
abbrev Machine.State.HoldsAtPc (s : State) (i : Instr) : Prop :=
  ∀ k, k < i.length → s.read8 (s.pc + BitVec.ofNat 32 k) = (encode i).getD k 0

/-- The register an instruction writes, if any (R22, R135). -/
def Instr.dest : Instr → Option RegIdx
  | .nop => none
  | .movImm d _ => some d
  | .movReg _ d => some d
  | .addImm d _ => some d

/-- The cycles returned by the first `k` steps from a state, summed (R134, R137). -/
def cyclesOver : Nat → State → Nat
  | 0, _ => 0
  | k + 1, s =>
    s.stepCycles +
      match step s with
      | .next t => cyclesOver k t
      | .fault _ => 0
      | .refused _ => 0

end Sys2Proof
end

