-- ==== Sys2Proof/Certificates/Slice0/Obligations.lean ====
section
/-! DEFINITION. The statements for the provers, from the numbered rules of spec/. -/

open Sys2Proof Sys2Proof.Machine

/-! ### The four instructions and the unrecognized byte -/

/-- R150, whole: the encoding, length and cost of NOP, and its effect: pc + 1 and nothing else. -/
def Obligations.NopOnlyAdvancesPc : Prop :=
  encode .nop = [0x03] ∧ Instr.nop.length = 1 ∧ Instr.nop.cycles = 1 ∧
    ∀ s : State, exec .nop s = .next { s with pc := s.pc + 1 }

/-- R155, whole: the encoding, length and cost of MOV.L #imm32,Rd, and its effect for every d and imm32; everything the equation
does not name is unchanged, O, C, I, U, PM, IPL, usp and isp among it. -/
def Obligations.MovImmediateWritesRegisterAndFlags : Prop :=
  ∀ (d : RegIdx) (imm : Word),
    encode (.movImm d imm) = [0xFB, 0x12, BitVec.ofNat 8 d.toNat, byteOf imm.toNat 0, byteOf imm.toNat 1, byteOf imm.toNat 2,
        byteOf imm.toNat 3] ∧
      (Instr.movImm d imm).length = 7 ∧ (Instr.movImm d imm).cycles = 2 ∧
      ∀ s : State, exec (.movImm d imm) s = .next { s with
        regs := s.regs.set d.toNat imm
        psw := { s.psw with Z := decide (imm.toNat = 0), S := decide (2 ^ 31 ≤ imm.toNat) }
        pc := s.pc + 7 }

/-- R156, whole: MOV.L Rs,Rd for every s and d, equal ones among them. -/
def Obligations.MovRegisterCopiesAndSetsFlags : Prop :=
  ∀ rs d : RegIdx,
    encode (.movReg rs d) = [0xCF, BitVec.ofNat 8 (16 * rs.toNat + d.toNat)] ∧
      (Instr.movReg rs d).length = 2 ∧ (Instr.movReg rs d).cycles = 1 ∧
      ∀ s : State, exec (.movReg rs d) s = .next { s with
        regs := s.regs.set d.toNat s.regs[rs.toNat]
        psw := { s.psw with Z := decide (s.regs[rs.toNat].toNat = 0), S := decide (2 ^ 31 ≤ s.regs[rs.toNat].toNat) }
        pc := s.pc + 2 }

/-- R165, whole: ADD.L #imm32,Rd: the sum modulo 2^32, Z and S from it, C and O and everything else as before. -/
def Obligations.AddImmediateWrapsAndSetsFlags : Prop :=
  ∀ (d : RegIdx) (imm : Word),
    encode (.addImm d imm) = [0x72, BitVec.ofNat 8 (32 + d.toNat), byteOf imm.toNat 0, byteOf imm.toNat 1, byteOf imm.toNat 2,
        byteOf imm.toNat 3] ∧
      (Instr.addImm d imm).length = 6 ∧ (Instr.addImm d imm).cycles = 2 ∧
      ∀ s : State, exec (.addImm d imm) s = .next { s with
        regs := s.regs.set d.toNat (BitVec.ofNat 32 (s.regs[d.toNat].toNat + imm.toNat))
        psw := { s.psw with
          Z := decide ((s.regs[d.toNat].toNat + imm.toNat) % 2 ^ 32 = 0)
          S := decide (2 ^ 31 ≤ (s.regs[d.toNat].toNat + imm.toNat) % 2 ^ 32) }
        pc := s.pc + 6 }

/-- R135, R144: the frame of NOP, MOV.L #imm32, MOV.L Rs and ADD.L: every register but the destination, every PSW field but Z and S
(for NOP those too), every other register and unit, and every byte of memory are as before. No instruction stores to memory. -/
def Obligations.InstructionsChangeOnlyTheirDestination : Prop :=
  ∀ (i : Instr) (s t : State), exec i s = .next t →
    (∀ r : RegIdx, i.dest ≠ some r → t.readReg r = s.readReg r) ∧
      t.psw.I = s.psw.I ∧ t.psw.U = s.psw.U ∧ t.psw.PM = s.psw.PM ∧ t.psw.IPL = s.psw.IPL ∧ t.psw.O = s.psw.O ∧
      t.psw.C = s.psw.C ∧ (i = .nop → t.psw = s.psw) ∧
      t.usp = s.usp ∧ t.isp = s.isp ∧ t.acc = s.acc ∧ t.cfg = s.cfg ∧ t.pending = s.pending ∧ t.timer = s.timer ∧
      t.gpio = s.gpio ∧ t.serial = s.serial ∧ t.reports = s.reports ∧
      ∀ a : Word, t.read8 a = s.read8 a

/-- R192: a byte at pc that no pattern matches is reported and skipped: pc + 1, cost 1, nothing else. What the report carries is the
spec's decision D19 (log 19). -/
def Obligations.UnrecognizedByteIsReportedAndSkipped : Prop :=
  ∀ (s : State) (b : Byte), s.fetchDecode = .unrecognized b →
    b = s.read8 s.pc ∧ s.stepCycles = 1 ∧
      step s = .next { s with pc := s.pc + 1, reports := s.reports ++ [.unrecognizedOpcode s.pc b] }

/-! ### The step -/

/-- R130, R131: when the bytes at pc are the encoding of an instruction, the step is that instruction's `exec`; the pc advance is part
of `exec`, and the step adds nothing around it. -/
def Obligations.StepRunsTheDecodedInstruction : Prop :=
  ∀ (s : State) (i : Instr), i.wellFormed = true → s.HoldsAtPc i →
    s.fetchDecode = .instr i ∧ step s = exec i s ∧ s.stepCycles = i.cycles

/-- R136: `step()` is total and never raises. -/
def Obligations.StepAlwaysAnswersANextState : Prop :=
  ∀ s : State, ∃ t, step s = .next t

/-- R133: pc advances by the length of what was decoded, on every step, and so every step makes progress. -/
def Obligations.StepAdvancesPcByTheLength : Prop :=
  ∀ s t : State, step s = .next t → t.pc = s.pc + BitVec.ofNat 32 s.fetchDecode.length ∧ t.pc ≠ s.pc

/-- R134: the cycle costs, and that they depend on nothing but what is decoded. -/
def Obligations.CycleCostsFollowTheDecodedUnit : Prop :=
  Instr.nop.cycles = 1 ∧ (∀ d v, (Instr.movImm d v).cycles = 2) ∧ (∀ rs d, (Instr.movReg rs d).cycles = 1) ∧
    (∀ d v, (Instr.addImm d v).cycles = 2) ∧
    (∀ s : State, ∀ i, s.fetchDecode = .instr i → s.stepCycles = i.cycles) ∧
    ∀ s : State, ∀ b, s.fetchDecode = .unrecognized b → s.stepCycles = 1

/-- R144 (derived in the spec): what a step never changes, and that it changes one register at most and reports only an
unrecognized byte. -/
def Obligations.StepFrame : Prop :=
  ∀ s t : State, step s = .next t →
    t.usp = s.usp ∧ t.isp = s.isp ∧ t.acc = s.acc ∧ t.psw.I = s.psw.I ∧ t.psw.U = s.psw.U ∧ t.psw.PM = s.psw.PM ∧
      t.psw.IPL = s.psw.IPL ∧ t.psw.O = s.psw.O ∧ t.psw.C = s.psw.C ∧ (∀ a : Word, t.read8 a = s.read8 a) ∧
      t.pending = s.pending ∧ t.timer = s.timer ∧ t.gpio = s.gpio ∧ t.serial = s.serial ∧ t.cfg = s.cfg ∧
      (∃ d : RegIdx, ∀ r, r ≠ d → t.readReg r = s.readReg r) ∧
      ((∃ i, s.fetchDecode = .instr i) → t.reports = s.reports) ∧
      ∀ b, s.fetchDecode = .unrecognized b → t.regs = s.regs ∧ t.psw = s.psw

/-- R143, R135: a step's effect on the registers, Z, S, pc and its cost do not depend on the queue, the peripherals, the reports,
usp, isp, acc, or on PSW.I, U, PM, IPL, O and C: two states that agree on the map, memory, registers, pc, Z and S step alike. -/
def Obligations.StepIgnoresInterruptsAndModes : Prop :=
  ∀ s₁ s₂ t₁ t₂ : State, s₁.cfg = s₂.cfg → s₁.mem = s₂.mem → s₁.regs = s₂.regs → s₁.pc = s₂.pc →
    s₁.psw.Z = s₂.psw.Z → s₁.psw.S = s₂.psw.S → step s₁ = .next t₁ → step s₂ = .next t₂ →
    t₁.regs = t₂.regs ∧ t₁.pc = t₂.pc ∧ t₁.psw.Z = t₂.psw.Z ∧ t₁.psw.S = t₂.psw.S ∧ s₁.stepCycles = s₂.stepCycles ∧
      ∃ r, t₁.reports = s₁.reports ++ r ∧ t₂.reports = s₂.reports ++ r

/-! ### Encoding and decoding -/

/-- R91 to R97: decoding the bytes of any well-formed instruction gives it back, with every operand at every value, whatever
bytes follow. -/
def Obligations.DecodeOfEncodeIsTheInstruction : Prop :=
  ∀ i : Instr, i.wellFormed = true → ∀ b : Nat → Byte, (∀ k, k < i.length → b k = (encode i).getD k 0) → decode b = .instr i

/-- R91 to R98: an instruction has one encoding: the bytes that decode to it are its encoding. It rests on the fixed nibbles being tested,
R98's decision D7 (log 7): were they masked, FB 12 1d would decode to an instruction whose encoding it is not. -/
def Obligations.EncodingIsUnique : Prop :=
  ∀ (b : Nat → Byte) (i : Instr), decode b = .instr i →
    (encode i).length = i.length ∧ ∀ k, k < i.length → b k = (encode i).getD k 0

/-- R100 (derived in the spec, with decision D7, log 7): exactly which bytes are unrecognized, and that the unit is the byte at pc. -/
def Obligations.UnrecognizedSpaceExactly : Prop :=
  ∀ (b : Nat → Byte) (x : Byte), decode b = .unrecognized x ↔
    x = b 0 ∧
      (((b 0).toNat ≠ 0x03 ∧ (b 0).toNat ≠ 0xFB ∧ (b 0).toNat ≠ 0xCF ∧ (b 0).toNat ≠ 0x72) ∨
        ((b 0).toNat = 0xFB ∧ ((b 1).toNat ≠ 0x12 ∨ (b 2).toNat / 16 ≠ 0)) ∨
        ((b 0).toNat = 0x72 ∧ (b 1).toNat / 16 ≠ 2))

/-- R99: at most one pattern matches, so the priority order never decides anything. -/
def Obligations.PatternsAreMutuallyExclusive : Prop :=
  ∀ (b : Nat → Byte) (r₁ r₂ : OpcodeRow), r₁ ∈ opcodeRows → r₂ ∈ opcodeRows → r₁.hits b = true → r₂.hits b = true → r₁ = r₂

/-- The decoder is the first match of the machine-readable pattern table (spec/opcode_table.json; head of 30_encoding.md), with its
length and cost, and the unrecognized byte where no row matches. -/
def Obligations.DecoderFollowsThePatternTable : Prop :=
  ∀ b : Nat → Byte,
    (∀ r, opcodeRows.find? (fun r => r.hits b) = some r →
      ∃ i, decode b = .instr i ∧ i.mnemonic = r.mnemonic ∧ i.length = r.length ∧ i.cycles = r.cycles) ∧
      (opcodeRows.find? (fun r => r.hits b) = none → decode b = .unrecognized (b 0))

/-- Words written out from formats N, MI, RR and AI (95_test_vectors.md E1, E2, E5, E6 and E8). -/
def Obligations.SampleWordsDecode : Prop :=
  decodeList [0x03] = .instr .nop ∧
    decodeList [0xFB, 0x12, 0x0F, 0xEF, 0xBE, 0xAD, 0xDE] = .instr (.movImm 15 0xDEADBEEF) ∧
    decodeList [0xCF, 0x5A] = .instr (.movReg 5 10) ∧
    decodeList [0x72, 0x2A, 0x01, 0x00, 0x00, 0x00] = .instr (.addImm 10 1) ∧
    decodeList [0xFB, 0x12, 0x10] = .unrecognized 0xFB

/-! ### The assembler -/

/-- R113: decoding the produced bytes one instruction at a time gives back exactly the instructions the source spells, for every
source text. -/
def Obligations.AssemblerOutputDecodesBack : Prop :=
  ∀ source : List Char, decodeStream (assemble source).code = (sourceInstrs source).map .instr

/-- R107, R108, R109, R114: the disassembly spelling of every instruction assembles, without error, to exactly its encoding. -/
def Obligations.DisassemblyAssemblesToTheEncoding : Prop :=
  ∀ i : Instr, i.wellFormed = true → assemble (disassemble (.instr i)) = { code := encode i, errors := [] }

/-- R110, R111: the code is the encodings of the good lines in source order, and the errors name exactly the bad lines, in
ascending order. Counting lines from 1 is the spec's decision D8 (log 8). -/
def Obligations.AssemblerErrorsArePerLine : Prop :=
  ∀ source : List Char,
    (assemble source).code = (sourceInstrs source).flatMap encode ∧
      ((assemble source).errors.map AsmError.line).Pairwise (· < ·) ∧
      ∀ (n : Nat) (r : AsmReason), { line := n, reason := r } ∈ (assemble source).errors ↔
        1 ≤ n ∧ ∃ l, (splitAtChar '\n' source)[n - 1]? = some l ∧ assembleLine l = .error r

/-- R272, R271: a source with errors is not launched; without errors a launch runs the load, the seeding and the reset, so the CPU
starts at the offset. R270 calls the seeded value "typically the load offset of assembled code"; that `launch` seeds exactly that
offset is the model's choice (log 31). The map meets R6 (a) to (c), and (e): the slot lies inside one window. -/
def Obligations.LaunchRefusesErrorsAndStartsAtTheOffset : Prop :=
  ∀ (source : List Char) (offset : Nat) (s : State),
    ((assemble source).errors ≠ [] → launch source offset s = none) ∧
      ((assemble source).errors = [] → s.cfg.Valid → s.cfg.Bootable → offset < 2 ^ 32 →
        ∃ t, launch source offset s = some t ∧ t.pc.toNat = offset ∧ t.regs = resetRegs)

/-! ### Registers and flags -/

/-- R20, R21: sixteen plain registers: each reads back what was last written, r0 too, and a write touches no other register. That a write
of r0 leaves usp and isp alone is R21's decision D21 (log 21). -/
def Obligations.RegistersReadBackWhatWasWritten : Prop :=
  ∀ (s : State) (i : RegIdx) (v : Word),
    (s.writeReg i v).readReg i = v ∧ (∀ j, j ≠ i → (s.writeReg i v).readReg j = s.readReg j) ∧
      (s.writeReg i v).usp = s.usp ∧ (s.writeReg i v).isp = s.isp

/-- R139: `setZS` as numbers: Z is set for 0, S from bit 31 on, never both, and no other field moves; it is applied to the value just
written to the destination register. -/
def Obligations.FlagsComeFromTheResult : Prop :=
  ∀ (s : State) (d : RegIdx) (v : Word),
    (s.setZS v).psw = { s.psw with Z := decide (v.toNat = 0), S := decide (2 ^ 31 ≤ v.toNat) } ∧
      ¬ ((s.setZS v).psw.Z = true ∧ (s.setZS v).psw.S = true) ∧
      (s.writeResult d v).readReg d = v ∧ (s.writeResult d v).psw = (s.setZS ((s.writeResult d v).readReg d)).psw

/-! ### Invariants -/

/-- Every step keeps: the parameters valid, memory canonical, the queue in order (R203), Z and S never both 1 (R139), and the control
state at its reset values (R27, R28, R222). -/
def Obligations.StepKeepsTheInvariants : Prop :=
  ∀ s t : State, s.Inv → s.FlagsConsistent → s.ControlAtReset → step s = .next t →
    t.Inv ∧ t.FlagsConsistent ∧ t.ControlAtReset

/-- The invariants hold after reset. State.reset carries the model's choice of map (log 29). -/
def Obligations.ResetMeetsTheInvariants : Prop :=
  State.reset.Inv ∧ State.reset.FlagsConsistent ∧ State.reset.ControlAtReset

/-- Every operation of R9, by any agent, keeps the same invariants and the parameters (R42): those of memory, queue (R203), flags (R139)
and control state (R27, R28, R30, R31). That usp and U have the reset value 0 is decisions D4 and D5 (log 4, 5); memory as one
list in canonical form is the model's (log 35), and so is the field that holds the parameters (log 28). -/
def Obligations.EveryOperationKeepsTheInvariants : Prop :=
  ∀ (op : HostOp) (s t : State) (r : Response), serve op s = .next (t, r) →
    t.cfg = s.cfg ∧ (s.Inv → t.Inv) ∧ (s.FlagsConsistent → t.FlagsConsistent) ∧ (s.ControlAtReset → t.ControlAtReset)

/-- R27, R28, R30, R31, R179: only `cpu.reset()` writes I, U, PM, IPL, O, C, usp, isp and acc. -/
def Obligations.OnlyCpuResetWritesControlState : Prop :=
  ∀ (op : HostOp) (s t : State) (r : Response), op ≠ .cpuReset → serve op s = .next (t, r) →
    t.psw.I = s.psw.I ∧ t.psw.U = s.psw.U ∧ t.psw.PM = s.psw.PM ∧ t.psw.IPL = s.psw.IPL ∧ t.psw.O = s.psw.O ∧
      t.psw.C = s.psw.C ∧ t.usp = s.usp ∧ t.isp = s.isp ∧ t.acc = s.acc

/-- R8, R10, R55, R136: no schedule of operations ever stops: the CPU never stops by itself and no operation can fail. -/
def Obligations.EveryScheduleCompletes : Prop :=
  ∀ (ops : List HostOp) (s : State), ∃ t, serveAll ops s = .next t

/-- R38, R39: the serial log and the report channel are append-only under every operation (that no reset clears them is decisions
D17 and D19, log 17 and 19). -/
def Obligations.LogAndReportsAreAppendOnly : Prop :=
  ∀ (op : HostOp) (s t : State) (r : Response), serve op s = .next (t, r) →
    s.serial.LOG <+: t.serial.LOG ∧ s.reports <+: t.reports

/-! ### Memory -/

/-- R59, R62, R54: a byte write is seen at its own address, if that is mapped, and nowhere else; unmapped addresses read 0 always; only
memory changes. The cut to 8 bits is decision D25, writes landing in ROM is decision D9 (log 25, log 9). -/
def Obligations.ByteWriteThenRead : Prop :=
  ∀ (s : State) (a x : Word) (v : Nat),
    (s.write8 a v).read8 x = (if x = a ∧ s.cfg.Mapped a.toNat then BitVec.ofNat 8 v else s.read8 x) ∧
      (¬ s.cfg.Mapped x.toNat → s.read8 x = 0) ∧ (¬ s.cfg.Mapped a.toNat → s.write8 a v = s) ∧
      ∃ m, s.write8 a v = { s with mem := m }

/-- R60, R61: the wider reads are the little-endian assembly of consecutive byte reads. -/
def Obligations.WideReadsAreLittleEndian : Prop :=
  ∀ (s : State) (a : Word),
    (s.read16 a).toNat = (s.read8 a).toNat + 2 ^ 8 * (s.read8 (a + 1)).toNat ∧
      (s.read32 a).toNat = (s.read8 a).toNat + 2 ^ 8 * (s.read8 (a + 1)).toNat + 2 ^ 16 * (s.read8 (a + 2)).toNat +
        2 ^ 24 * (s.read8 (a + 3)).toNat

/-- R63, R64, R69: the wider writes, byte by byte: byte k of the value lands at address a + k where that is mapped, and every other
byte of memory is as before. -/
def Obligations.WideWritesLandByteByByte : Prop :=
  ∀ (s : State) (a x : Word) (v : Nat),
    (s.write16 a v).read8 x =
        (if (x - a).toNat < 2 ∧ s.cfg.Mapped x.toNat then BitVec.ofNat 8 (v / 2 ^ (8 * (x - a).toNat)) else s.read8 x) ∧
      (s.write32 a v).read8 x =
        (if (x - a).toNat < 4 ∧ s.cfg.Mapped x.toNat then BitVec.ofNat 8 (v / 2 ^ (8 * (x - a).toNat)) else s.read8 x)

/-- R64, R61, R67, R70: a word written where its four bytes are mapped reads back modulo 2^32. -/
def Obligations.WordWriteReadsBack : Prop :=
  ∀ (s : State) (a : Word) (v : Nat), s.cfg.Mapped a.toNat → s.cfg.Mapped (a + 1).toNat → s.cfg.Mapped (a + 2).toNat →
    s.cfg.Mapped (a + 3).toNat → (s.write32 a v).read32 a = BitVec.ofNat 32 v

/-- R65: `mem.reset()` zeroes RAM only: every RAM byte reads 0, every other byte and all other state is as before; neither it nor
`cpu.reset()` does the other's work. -/
def Obligations.MemResetZeroesRamOnly : Prop :=
  ∀ (s : State) (a : Word),
    (s.memReset).read8 a = (if s.cfg.InRAM a.toNat then 0 else s.read8 a) ∧ (∃ m, s.memReset = { s with mem := m }) ∧
      s.cpuReset.mem = s.mem

/-- R66: `load` by its window: bytes land from the offset on, cut at the window's end, reporting nothing; an offset in no window
changes nothing and reports. Unbounded counting and the empty load are decision D27, the report's payload D19 (log 27, log 19). -/
def Obligations.LoadCopiesIntoOneWindow : Prop :=
  ∀ (s : State) (data : List Byte) (offset : Nat),
    (∀ last, (s.cfg.InRAM offset ∧ last = s.cfg.ramEnd.toNat) ∨
        (¬ s.cfg.InRAM offset ∧ s.cfg.InROM offset ∧ last = s.cfg.romEnd.toNat) →
      (∃ m, s.load data offset = { s with mem := m }) ∧
        ∀ a : Word, (s.load data offset).read8 a =
          (if offset ≤ a.toNat ∧ a.toNat < offset + data.length ∧ a.toNat ≤ last then data.getD (a.toNat - offset) 0
            else s.read8 a)) ∧
      (¬ s.cfg.Mapped offset → s.load data offset = { s with reports := s.reports ++ [.loadOutOfWindow offset data.length] })

/-- Two canonical memories that read alike at every address are the same data. -/
def Obligations.CanonicalMemoriesAreEqual : Prop :=
  ∀ (c : Config) (m₁ m₂ : Memory), m₁.wf c → m₂.wf c → (∀ a : Word, m₁.read8 c a = m₂.read8 c a) → m₁ = m₂

/-- R58: the neighbours of the windows, where they exist as 32-bit addresses and lie in no other window, are unmapped. -/
def Obligations.WindowNeighboursAreUnmapped : Prop :=
  ∀ (s : State) (a : Word) (v : Nat),
    (a.toNat = s.cfg.romEnd.toNat + 1 ∧ ¬ s.cfg.InRAM a.toNat) ∨ (a.toNat + 1 = s.cfg.ramStart.toNat ∧ ¬ s.cfg.InROM a.toNat) ∨
      (a.toNat = s.cfg.ramEnd.toNat + 1 ∧ ¬ s.cfg.InROM a.toNat) ∨ (a.toNat + 1 = s.cfg.romStart.toNat ∧ ¬ s.cfg.InRAM a.toNat) →
    s.read8 a = 0 ∧ s.write8 a v = s

/-- R57: where the map keeps the peripheral windows and the data-flash region outside RAM and ROM (log 42), an access of any width whose
bytes all lie in them reads 0 and writes nothing. -/
def Obligations.DeviceRegionsAreUnmapped : Prop :=
  ∀ (s : State) (w : Width) (a : Word) (v : Nat), s.cfg.DevicesUnmapped →
    (∀ k, k < w.bytes → s.cfg.InDeviceRegion (a + BitVec.ofNat 32 k).toNat) → s.memRead w a = 0 ∧ s.memWrite w a v = s

/-- R57, R218: no access to the global address space, of any width, at any address, reads or changes a peripheral, and no peripheral
access changes memory or the CPU. -/
def Obligations.GlobalAndOffsetSpacesAreSeparate : Prop :=
  ∀ (s : State) (w : Width) (p : Peripheral) (a : Word) (o v : Nat),
    (∃ m, s.memWrite w a v = { s with mem := m }) ∧
      (∀ g t l, State.memRead { s with gpio := g, timer := t, serial := l } w a = s.memRead w a) ∧
      ∃ g t l, s.periphWrite p w o v = { s with gpio := g, timer := t, serial := l }

/-- R33 and 95_test_vectors.md S11: untouched ROM is a stream of NOPs: k steps inside it move pc by k and change nothing else. -/
def Obligations.UntouchedRomIsANopStream : Prop :=
  ∀ (s : State) (k : Nat), s.cfg.Valid → s.mem = [] → s.cfg.InROM s.pc.toNat → s.pc.toNat + k ≤ s.cfg.romEnd.toNat + 1 →
    Sys2Proof.core.run k s = .next { s with pc := s.pc + BitVec.ofNat 32 k }

/-- R277, R192: over bytes that read 0, unmapped ones among them, k steps move pc by k, report each byte and change nothing else. -/
def Obligations.ZeroBytesAreSkippedOneByOne : Prop :=
  ∀ (s : State) (k : Nat), (∀ j, j < k → s.read8 (s.pc + BitVec.ofNat 32 j) = 0) →
    Sys2Proof.core.run k s = .next { s with
      pc := s.pc + BitVec.ofNat 32 k
      reports := s.reports ++ (List.range k).map (fun j => .unrecognizedOpcode (s.pc + BitVec.ofNat 32 j) 0) }

/-! ### run(n) -/

/-- R137, R138: `run(n)` always ends, after at least ceil(n/2) and at most n steps, with n <= total <= n + 1 for n >= 1; `run(0)` does
nothing (decision D18, log 18). -/
def Obligations.RunEndsWithinItsBounds : Prop :=
  ∀ (n : Nat) (s : State), ∃ r, runCounted n s = .next r ∧ run n s = .next r.state ∧ n ≤ r.total ∧ r.total ≤ n + 1 ∧
    r.steps ≤ n ∧ n ≤ 2 * r.steps ∧ (n = 0 → r.state = s ∧ r.total = 0)

/-- R137: `run(n)` is the least number of steps whose summed cycles reach n: its own steps reach n, and no smaller number does. That
the budget is tested before each step is decision D18 (log 18). -/
def Obligations.RunIsTheShortestRunReachingItsBudget : Prop :=
  ∀ (n : Nat) (s : State), ∃ r, runCounted n s = .next r ∧ run n s = .next r.state ∧
    Sys2Proof.core.run r.steps s = .next r.state ∧ r.total = cyclesOver r.steps s ∧ n ≤ r.total ∧
    ∀ j, j < r.steps → cyclesOver j s < n

/-! ### Reset -/

/-- R261: every item `cpu.reset()` writes. usp and U are decisions D4 and D5 (log 4, log 5). -/
def Obligations.CpuResetSetsEveryCpuItem : Prop :=
  ∀ s : State,
    (∀ i : RegIdx, s.cpuReset.readReg i = 0) ∧ s.cpuReset.acc = 0 ∧
      s.cpuReset.psw = { I := false, U := false, PM := .supervisor, IPL := 0, O := false, S := false, Z := false, C := false } ∧
      s.cpuReset.usp = 0 ∧ s.cpuReset.isp = s.cfg.ispReset ∧ s.cpuReset.pc = s.read32 s.cfg.resetVectorAddr

/-- R262 (decision D10, log 10): `cpu.reset()` changes CPU state only. -/
def Obligations.CpuResetChangesCpuStateOnly : Prop :=
  ∀ s : State, s.cpuReset.mem = s.mem ∧ s.cpuReset.pending = s.pending ∧ s.cpuReset.timer = s.timer ∧ s.cpuReset.gpio = s.gpio ∧
    s.cpuReset.serial = s.serial ∧ s.cpuReset.reports = s.reports ∧ s.cpuReset.cfg = s.cfg

/-- R264: reset is idempotent, whatever the machine did in between, as long as memory is unchanged: the snapshots are identical. That two
states that differ in usp or U have one snapshot after reset rests on decisions D4 and D5 (log 4, 5): reset writes both. -/
def Obligations.CpuResetIsIdempotent : Prop :=
  ∀ s t : State, t.cfg = s.cfg → t.mem = s.mem → t.cpuReset.snapshot = s.cpuReset.snapshot ∧ s.cpuReset.cpuReset = s.cpuReset

/-- R263 (that consequence is marked derived in the spec): the unseeded reset vector: 0x03030303 from untouched ROM, 0 from zeroed RAM or unmapped space
(power-on RAM is decision D11, log 11). -/
def Obligations.UnseededResetVector : Prop :=
  ∀ c : Config,
    ((∀ k, k < 4 → c.InROM (c.resetVectorAddr + BitVec.ofNat 32 k).toNat ∧ ¬ c.InRAM (c.resetVectorAddr + BitVec.ofNat 32 k).toNat) →
        (State.powerOn c).cpuReset.pc = 0x03030303) ∧
      ((∀ k, k < 4 → ¬ c.InROM (c.resetVectorAddr + BitVec.ofNat 32 k).toNat) → (State.powerOn c).cpuReset.pc = 0)

/-! ### The interrupt controller -/

/-- R202, R203: a request is inserted immediately behind the last pending request of at least its own priority, which keeps the queue in
priority order and stands it behind every earlier request of its own priority; nothing else changes. -/
def Obligations.RequestIsInsertedInStableOrder : Prop :=
  ∀ (s : State) (r : InterruptRequest), PendingSorted s.pending →
    (∃ front back, s.pending = front ++ back ∧ (∀ q ∈ front, r.priority ≤ q.priority) ∧ (∀ q ∈ back, q.priority < r.priority) ∧
        (s.requestInterrupt r).pending = front ++ r :: back) ∧
      PendingSorted (s.requestInterrupt r).pending ∧
      (∀ p : Nat, (s.requestInterrupt r).pending.filter (fun q => q.priority == p) =
        s.pending.filter (fun q => q.priority == p) ++ (if r.priority = p then [r] else [])) ∧
      ∃ q, s.requestInterrupt r = { s with pending := q }

/-- R203, R205, R206, R212: any requests made on an empty queue are delivered by popNext all and once each, higher priority first and,
within a priority, in the order requested; then popNext answers none. -/
def Obligations.RequestsAreDeliveredByPriorityThenAge : Prop :=
  ∀ (s : State) (rs : List InterruptRequest), s.pending = [] →
    let t := rs.foldl State.requestInterrupt s
    let delivered := (t.popMany rs.length).1
    PendingSorted delivered ∧ delivered.Perm rs ∧
      (∀ p : Nat, delivered.filter (fun q => q.priority == p) = rs.filter (fun q => q.priority == p)) ∧
      (t.popMany rs.length).2 = s ∧ s.popNext = (none, s)

/-- R205, R204: popNext returns and removes the front request, which in an ordered queue (R203) has the highest priority, or answers none
and changes nothing; hasPending says which. -/
def Obligations.PopNextTakesTheFront : Prop :=
  ∀ s : State,
    (s.pending = [] → s.popNext = (none, s) ∧ s.hasPending = false) ∧
      ∀ r rest, s.pending = r :: rest → s.popNext = (some r, { s with pending := rest }) ∧ s.hasPending = true ∧
        (PendingSorted s.pending → ∀ q ∈ rest, q.priority ≤ r.priority)

/-- R208, R209: vector resolution as numbers: the entry address modulo 2^32 (decision D1, log 1) and the little-endian handler
address read there. -/
def Obligations.VectorsResolveThroughTheTable : Prop :=
  ∀ (s : State) (v : Nat),
    (s.getVectorAddress v).toNat = (s.cfg.vectorTableBase.toNat + 4 * v) % 2 ^ 32 ∧
      s.resolveVector v = s.read32 (BitVec.ofNat 32 (s.cfg.vectorTableBase.toNat + 4 * v))

/-! ### The peripherals -/

/-- R228, with decisions D13, D14 and D15 (log 13 to 15): a tick, by its three cases. -/
def Obligations.TimerTickByCases : Prop :=
  ∀ (s : State) (n : Nat),
    (s.timer.EN.toNat % 2 = 0 → s.timerTick n = s) ∧
      (s.timer.EN.toNat % 2 = 1 → s.timer.CNT.toNat + n < s.timer.CMP.toNat →
        (s.timerTick n).timer.CNT.toNat = s.timer.CNT.toNat + n ∧ (s.timerTick n).pending = s.pending) ∧
      (s.timer.EN.toNat % 2 = 1 → s.timer.CMP.toNat ≤ s.timer.CNT.toNat + n →
        (s.timerTick n).timer.CNT = 0 ∧ (s.timerTick n).pending =
          (if s.timer.IEN.toNat % 2 = 1 then (s.requestInterrupt ⟨s.cfg.timerVector.toNat, 3, .timer⟩).pending
            else s.pending)) ∧
      ∃ c q, s.timerTick n = { s with timer := { s.timer with CNT := c }, pending := q }

/-- R229 (a), (g) (derived in the spec): ticked one cycle at a time from 0, the counter shows 0 to CMP - 1, and the tick that would show
CMP shows 0 and queues exactly one request. -/
def Obligations.TimerPeriodIsTheCompareValue : Prop :=
  ∀ s : State, s.timer.EN.toNat % 2 = 1 → s.timer.IEN.toNat % 2 = 1 → s.timer.CNT = 0 → 1 ≤ s.timer.CMP.toNat →
    (∀ k, k < s.timer.CMP.toNat → (fun u => State.timerTick u 1)^[k] s = { s with timer := { s.timer with CNT := BitVec.ofNat 32 k } }) ∧
      (fun u => State.timerTick u 1)^[s.timer.CMP.toNat] s = s.requestInterrupt ⟨s.cfg.timerVector.toNat, 3, .timer⟩

/-- R226, R227 (offsets by decision D14, log 14): the timer's byte registers: a write is seen at its own offset and nowhere else, offsets
from 10 on read 0 and drop writes, and the two 32-bit registers read as CNT and CMP. -/
def Obligations.TimerRegistersAreByteAddressed : Prop :=
  ∀ (t : Timer) (o x : Nat) (v : Byte),
    (t.write8 o v).read8 x = (if x = o ∧ o < 10 then v else t.read8 x) ∧ (10 ≤ x → t.read8 x = 0) ∧ (10 ≤ o → t.write8 o v = t) ∧
      le32 (t.read8 0) (t.read8 1) (t.read8 2) (t.read8 3) = t.CNT ∧
      le32 (t.read8 4) (t.read8 5) (t.read8 6) (t.read8 7) = t.CMP ∧ t.read8 8 = t.EN ∧ t.read8 9 = t.IEN

/-- R230, R239: the resets of timer and GPIO and GPIO's tick; nothing else moves, queued requests least of all. -/
def Obligations.TimerAndGpioReset : Prop :=
  ∀ s : State,
    s.periphReset .timer = { s with timer := { CNT := 0, CMP := 1000, EN := 0, IEN := 0 } } ∧
      s.periphReset .gpio = { s with gpio := { DIR := 0, OUT := 0, IN := 0 } } ∧
      ∀ n, s.periphTick .gpio n = s

/-- R236 to R238 (decision D16, log 16): the GPIO registers and pins. -/
def Obligations.GpioRegistersAndPins : Prop :=
  ∀ (g : Gpio) (v : Byte) (o bit value : Nat),
    (g.write8 0 v = { g with DIR := v } ∧ g.write8 1 v = { g with OUT := v } ∧ (2 ≤ o → g.write8 o v = g)) ∧
      (g.read8 0 = g.DIR ∧ g.read8 1 = g.OUT ∧ g.read8 2 = g.IN ∧ (3 ≤ o → g.read8 o = 0)) ∧
      ((g.setInputBit bit value).DIR = g.DIR ∧ (g.setInputBit bit value).OUT = g.OUT) ∧
      (∀ n, (g.setInputBit bit value).IN.getLsbD n = (if n = bit ∧ bit ≤ 7 then decide (value ≠ 0) else g.IN.getLsbD n)) ∧
      (bit ≤ 7 → g.getOutputBit bit = g.OUT.getLsbD bit) ∧ (7 < bit → g.getOutputBit bit = false)

/-- R247 to R249 (offset and log lifetime by decision D17, log 17): each write to offset 0 appends one character, of any width; every
other offset is dropped; reads give 0; reset and tick do nothing. -/
def Obligations.SerialAppendsOneCharacterPerWrite : Prop :=
  ∀ (s : State) (w : Width) (o v n : Nat),
    s.periphWrite .serial w 0 v = { s with serial := { LOG := s.serial.LOG ++ [BitVec.ofNat 8 v] } } ∧
      (1 ≤ o → s.periphWrite .serial w o v = s) ∧ s.periphRead .serial w o = 0 ∧ s.periphReset .serial = s ∧
      s.periphTick .serial n = s

/-- R220: the wider peripheral reads are little-endian compositions of byte reads at consecutive offsets. -/
def Obligations.PeripheralWideReadsAreComposed : Prop :=
  ∀ (s : State) (p : Peripheral) (o : Nat),
    s.periphRead p .w16 o = s.periphRead p .w8 o + 2 ^ 8 * s.periphRead p .w8 (o + 1) ∧
      s.periphRead p .w32 o = s.periphRead p .w8 o + 2 ^ 8 * s.periphRead p .w8 (o + 1) + 2 ^ 16 * s.periphRead p .w8 (o + 2) +
        2 ^ 24 * s.periphRead p .w8 (o + 3)

/-- R220: the wider peripheral writes are byte writes of the value's bytes, the least significant first, at consecutive offsets. The
ascending order is decision D24 (log 24), the cut of each byte D25 (log 25). What they leave in timer and GPIO, register by
register, rests on the offsets of decisions D14 and D16 (log 14, 16): a byte at an undefined offset, or at IN, is dropped alone. -/
def Obligations.PeripheralWideWritesAreComposed : Prop :=
  ∀ (s : State) (o v : Nat),
    (∀ p : Peripheral,
      s.periphWrite p .w16 o v = (s.periphWrite p .w8 o (v % 2 ^ 8)).periphWrite p .w8 (o + 1) (v / 2 ^ 8 % 2 ^ 8) ∧
        s.periphWrite p .w32 o v =
          (((s.periphWrite p .w8 o (v % 2 ^ 8)).periphWrite p .w8 (o + 1) (v / 2 ^ 8 % 2 ^ 8)).periphWrite p .w8 (o + 2)
            (v / 2 ^ 16 % 2 ^ 8)).periphWrite p .w8 (o + 3) (v / 2 ^ 24 % 2 ^ 8)) ∧
      s.periphWrite .timer .w32 0 v = { s with timer := { s.timer with CNT := BitVec.ofNat 32 v } } ∧
      s.periphWrite .timer .w32 4 v = { s with timer := { s.timer with CMP := BitVec.ofNat 32 v } } ∧
      (∀ w : Width, w ≠ .w8 → s.periphWrite .timer w 8 v =
        { s with timer := { s.timer with EN := BitVec.ofNat 8 v, IEN := BitVec.ofNat 8 (v / 2 ^ 8) } }) ∧
      (∀ w : Width, w ≠ .w8 → s.periphWrite .gpio w 0 v =
        { s with gpio := { s.gpio with DIR := BitVec.ofNat 8 v, OUT := BitVec.ofNat 8 (v / 2 ^ 8) } }) ∧
      ∀ w : Width, s.periphWrite .gpio w 1 v = { s with gpio := { s.gpio with OUT := BitVec.ofNat 8 v } }
end

