-- ==== Sys2Proof/Laws/Bytes.lean ====
section
/-! SUPPORT. Little-endian composition and decomposition are inverse; nibbles likewise (spec/20_memory.md R60, R61, R67). -/

namespace Sys2Proof.Machine

theorem byteOf_toNat (v k : Nat) : (byteOf v k).toNat = v / 2 ^ (8 * k) % 256 := by
  simp [byteOf, Nat.shiftRight_eq_div_pow]

theorem le16_toNat (b0 b1 : Byte) : (le16 b0 b1).toNat = b0.toNat + 256 * b1.toNat := by
  have h0 := b0.isLt
  simp only [le16, BitVec.toNat_append]
  rw [Nat.shiftLeft_eq, ← Nat.shiftLeft_eq, ← Nat.shiftLeft_add_eq_or_of_lt h0, Nat.shiftLeft_eq]
  omega

theorem le32_toNat (b0 b1 b2 b3 : Byte) :
    (le32 b0 b1 b2 b3).toNat = b0.toNat + 256 * b1.toNat + 65536 * b2.toNat + 16777216 * b3.toNat := by
  have h0 := b0.isLt
  have h1 := b1.isLt
  have h2 := b2.isLt
  simp only [le32, BitVec.toNat_append]
  rw [← Nat.shiftLeft_add_eq_or_of_lt h2, ← Nat.shiftLeft_add_eq_or_of_lt h1, ← Nat.shiftLeft_add_eq_or_of_lt h0]
  simp only [Nat.shiftLeft_eq]
  omega

/-- Composing the four bytes of a number gives it modulo 2^32. -/
theorem le32_byteOf (v : Nat) : le32 (byteOf v 0) (byteOf v 1) (byteOf v 2) (byteOf v 3) = BitVec.ofNat 32 v := by
  apply BitVec.eq_of_toNat_eq
  simp only [le32_toNat, byteOf_toNat, BitVec.toNat_ofNat]
  omega

theorem le16_byteOf (v : Nat) : le16 (byteOf v 0) (byteOf v 1) = BitVec.ofNat 16 v := by
  apply BitVec.eq_of_toNat_eq
  simp only [le16_toNat, byteOf_toNat, BitVec.toNat_ofNat]
  omega

/-- The byte of a composed word. -/
theorem byteOf_le32 (b0 b1 b2 b3 : Byte) :
    byteOf (le32 b0 b1 b2 b3).toNat 0 = b0 ∧ byteOf (le32 b0 b1 b2 b3).toNat 1 = b1 ∧
      byteOf (le32 b0 b1 b2 b3).toNat 2 = b2 ∧ byteOf (le32 b0 b1 b2 b3).toNat 3 = b3 := by
  have h0 := b0.isLt
  have h1 := b1.isLt
  have h2 := b2.isLt
  have h3 := b3.isLt
  refine ⟨?_, ?_, ?_, ?_⟩ <;> apply BitVec.eq_of_toNat_eq <;> simp only [byteOf_toNat, le32_toNat] <;> omega

/-- Shifting right by whole bytes, as the wider writes do it (R63, R64). -/
theorem byteOf_shiftRight (v k : Nat) : byteOf (v >>> (8 * k)) 0 = byteOf v k := by
  simp [byteOf]

/-- Replacing all four bytes of a word leaves nothing of the old one (R220, R227). -/
theorem setByte_all (w : Word) (b0 b1 b2 b3 : Byte) :
    setByte (setByte (setByte (setByte w 0 b0) 1 b1) 2 b2) 3 b3 = le32 b0 b1 b2 b3 := by
  simp only [setByte, byteOf_le32]

theorem hiNibble_nibbles (h l : BitVec 4) : hiNibble (nibbles h l) = h := by
  revert h l; decide

theorem loNibble_nibbles (h l : BitVec 4) : loNibble (nibbles h l) = l := by
  revert h l; decide

theorem nibbles_eta (b : Byte) : nibbles (hiNibble b) (loNibble b) = b := by
  revert b; decide

end Sys2Proof.Machine
end

