-- ==== Sys2Proof/Laws/State.lean ====
section
/-! SUPPORT. What each named update of the state leaves in each field: one lemma per field per update, so that no proof unfolds a
record update. -/

namespace Sys2Proof.Machine.State

variable (s : State)

/-! `writeReg` -/

@[simp] theorem writeReg_cfg (i : RegIdx) (v : Word) : (s.writeReg i v).cfg = s.cfg := rfl
@[simp] theorem writeReg_regs (i : RegIdx) (v : Word) : (s.writeReg i v).regs = s.regs.set i.toNat v := rfl
@[simp] theorem writeReg_pc (i : RegIdx) (v : Word) : (s.writeReg i v).pc = s.pc := rfl
@[simp] theorem writeReg_usp (i : RegIdx) (v : Word) : (s.writeReg i v).usp = s.usp := rfl
@[simp] theorem writeReg_isp (i : RegIdx) (v : Word) : (s.writeReg i v).isp = s.isp := rfl
@[simp] theorem writeReg_acc (i : RegIdx) (v : Word) : (s.writeReg i v).acc = s.acc := rfl
@[simp] theorem writeReg_psw (i : RegIdx) (v : Word) : (s.writeReg i v).psw = s.psw := rfl
@[simp] theorem writeReg_mem (i : RegIdx) (v : Word) : (s.writeReg i v).mem = s.mem := rfl
@[simp] theorem writeReg_pending (i : RegIdx) (v : Word) : (s.writeReg i v).pending = s.pending := rfl
@[simp] theorem writeReg_timer (i : RegIdx) (v : Word) : (s.writeReg i v).timer = s.timer := rfl
@[simp] theorem writeReg_gpio (i : RegIdx) (v : Word) : (s.writeReg i v).gpio = s.gpio := rfl
@[simp] theorem writeReg_serial (i : RegIdx) (v : Word) : (s.writeReg i v).serial = s.serial := rfl
@[simp] theorem writeReg_reports (i : RegIdx) (v : Word) : (s.writeReg i v).reports = s.reports := rfl

/-! `advancePc` -/

@[simp] theorem advancePc_cfg (n : Nat) : (s.advancePc n).cfg = s.cfg := rfl
@[simp] theorem advancePc_regs (n : Nat) : (s.advancePc n).regs = s.regs := rfl
@[simp] theorem advancePc_pc (n : Nat) : (s.advancePc n).pc = s.pc + BitVec.ofNat 32 n := rfl
@[simp] theorem advancePc_usp (n : Nat) : (s.advancePc n).usp = s.usp := rfl
@[simp] theorem advancePc_isp (n : Nat) : (s.advancePc n).isp = s.isp := rfl
@[simp] theorem advancePc_acc (n : Nat) : (s.advancePc n).acc = s.acc := rfl
@[simp] theorem advancePc_psw (n : Nat) : (s.advancePc n).psw = s.psw := rfl
@[simp] theorem advancePc_mem (n : Nat) : (s.advancePc n).mem = s.mem := rfl
@[simp] theorem advancePc_pending (n : Nat) : (s.advancePc n).pending = s.pending := rfl
@[simp] theorem advancePc_timer (n : Nat) : (s.advancePc n).timer = s.timer := rfl
@[simp] theorem advancePc_gpio (n : Nat) : (s.advancePc n).gpio = s.gpio := rfl
@[simp] theorem advancePc_serial (n : Nat) : (s.advancePc n).serial = s.serial := rfl
@[simp] theorem advancePc_reports (n : Nat) : (s.advancePc n).reports = s.reports := rfl

/-! `setZS` -/

@[simp] theorem setZS_cfg (v : Word) : (s.setZS v).cfg = s.cfg := rfl
@[simp] theorem setZS_regs (v : Word) : (s.setZS v).regs = s.regs := rfl
@[simp] theorem setZS_pc (v : Word) : (s.setZS v).pc = s.pc := rfl
@[simp] theorem setZS_usp (v : Word) : (s.setZS v).usp = s.usp := rfl
@[simp] theorem setZS_isp (v : Word) : (s.setZS v).isp = s.isp := rfl
@[simp] theorem setZS_acc (v : Word) : (s.setZS v).acc = s.acc := rfl
@[simp] theorem setZS_psw (v : Word) : (s.setZS v).psw = { s.psw with Z := zeroFlag v, S := signFlag v } := rfl
@[simp] theorem setZS_mem (v : Word) : (s.setZS v).mem = s.mem := rfl
@[simp] theorem setZS_pending (v : Word) : (s.setZS v).pending = s.pending := rfl
@[simp] theorem setZS_timer (v : Word) : (s.setZS v).timer = s.timer := rfl
@[simp] theorem setZS_gpio (v : Word) : (s.setZS v).gpio = s.gpio := rfl
@[simp] theorem setZS_serial (v : Word) : (s.setZS v).serial = s.serial := rfl
@[simp] theorem setZS_reports (v : Word) : (s.setZS v).reports = s.reports := rfl

/-! `writeResult` -/

@[simp] theorem writeResult_cfg (d : RegIdx) (v : Word) : (s.writeResult d v).cfg = s.cfg := rfl
@[simp] theorem writeResult_regs (d : RegIdx) (v : Word) : (s.writeResult d v).regs = s.regs.set d.toNat v := rfl
@[simp] theorem writeResult_pc (d : RegIdx) (v : Word) : (s.writeResult d v).pc = s.pc := rfl
@[simp] theorem writeResult_usp (d : RegIdx) (v : Word) : (s.writeResult d v).usp = s.usp := rfl
@[simp] theorem writeResult_isp (d : RegIdx) (v : Word) : (s.writeResult d v).isp = s.isp := rfl
@[simp] theorem writeResult_acc (d : RegIdx) (v : Word) : (s.writeResult d v).acc = s.acc := rfl
@[simp] theorem writeResult_psw (d : RegIdx) (v : Word) : (s.writeResult d v).psw = { s.psw with Z := zeroFlag v, S := signFlag v } := rfl
@[simp] theorem writeResult_mem (d : RegIdx) (v : Word) : (s.writeResult d v).mem = s.mem := rfl
@[simp] theorem writeResult_pending (d : RegIdx) (v : Word) : (s.writeResult d v).pending = s.pending := rfl
@[simp] theorem writeResult_timer (d : RegIdx) (v : Word) : (s.writeResult d v).timer = s.timer := rfl
@[simp] theorem writeResult_gpio (d : RegIdx) (v : Word) : (s.writeResult d v).gpio = s.gpio := rfl
@[simp] theorem writeResult_serial (d : RegIdx) (v : Word) : (s.writeResult d v).serial = s.serial := rfl
@[simp] theorem writeResult_reports (d : RegIdx) (v : Word) : (s.writeResult d v).reports = s.reports := rfl

/-! `report` -/

@[simp] theorem report_cfg (r : Report) : (s.report r).cfg = s.cfg := rfl
@[simp] theorem report_regs (r : Report) : (s.report r).regs = s.regs := rfl
@[simp] theorem report_pc (r : Report) : (s.report r).pc = s.pc := rfl
@[simp] theorem report_usp (r : Report) : (s.report r).usp = s.usp := rfl
@[simp] theorem report_isp (r : Report) : (s.report r).isp = s.isp := rfl
@[simp] theorem report_acc (r : Report) : (s.report r).acc = s.acc := rfl
@[simp] theorem report_psw (r : Report) : (s.report r).psw = s.psw := rfl
@[simp] theorem report_mem (r : Report) : (s.report r).mem = s.mem := rfl
@[simp] theorem report_pending (r : Report) : (s.report r).pending = s.pending := rfl
@[simp] theorem report_timer (r : Report) : (s.report r).timer = s.timer := rfl
@[simp] theorem report_gpio (r : Report) : (s.report r).gpio = s.gpio := rfl
@[simp] theorem report_serial (r : Report) : (s.report r).serial = s.serial := rfl
@[simp] theorem report_reports (r : Report) : (s.report r).reports = s.reports ++ [r] := rfl

/-! `takeUnrecognized` -/

@[simp] theorem takeUnrecognized_cfg (b : Byte) : (s.takeUnrecognized b).cfg = s.cfg := rfl
@[simp] theorem takeUnrecognized_regs (b : Byte) : (s.takeUnrecognized b).regs = s.regs := rfl
@[simp] theorem takeUnrecognized_pc (b : Byte) : (s.takeUnrecognized b).pc = s.pc + 1 := rfl
@[simp] theorem takeUnrecognized_usp (b : Byte) : (s.takeUnrecognized b).usp = s.usp := rfl
@[simp] theorem takeUnrecognized_isp (b : Byte) : (s.takeUnrecognized b).isp = s.isp := rfl
@[simp] theorem takeUnrecognized_acc (b : Byte) : (s.takeUnrecognized b).acc = s.acc := rfl
@[simp] theorem takeUnrecognized_psw (b : Byte) : (s.takeUnrecognized b).psw = s.psw := rfl
@[simp] theorem takeUnrecognized_mem (b : Byte) : (s.takeUnrecognized b).mem = s.mem := rfl
@[simp] theorem takeUnrecognized_pending (b : Byte) : (s.takeUnrecognized b).pending = s.pending := rfl
@[simp] theorem takeUnrecognized_timer (b : Byte) : (s.takeUnrecognized b).timer = s.timer := rfl
@[simp] theorem takeUnrecognized_gpio (b : Byte) : (s.takeUnrecognized b).gpio = s.gpio := rfl
@[simp] theorem takeUnrecognized_serial (b : Byte) : (s.takeUnrecognized b).serial = s.serial := rfl
@[simp] theorem takeUnrecognized_reports (b : Byte) : (s.takeUnrecognized b).reports = s.reports ++ [.unrecognizedOpcode s.pc b] := rfl

/-! `write8` -/

@[simp] theorem write8_cfg (a : Word) (v : Nat) : (s.write8 a v).cfg = s.cfg := rfl
@[simp] theorem write8_regs (a : Word) (v : Nat) : (s.write8 a v).regs = s.regs := rfl
@[simp] theorem write8_pc (a : Word) (v : Nat) : (s.write8 a v).pc = s.pc := rfl
@[simp] theorem write8_usp (a : Word) (v : Nat) : (s.write8 a v).usp = s.usp := rfl
@[simp] theorem write8_isp (a : Word) (v : Nat) : (s.write8 a v).isp = s.isp := rfl
@[simp] theorem write8_acc (a : Word) (v : Nat) : (s.write8 a v).acc = s.acc := rfl
@[simp] theorem write8_psw (a : Word) (v : Nat) : (s.write8 a v).psw = s.psw := rfl
@[simp] theorem write8_mem (a : Word) (v : Nat) : (s.write8 a v).mem = s.mem.write8 s.cfg a v := rfl
@[simp] theorem write8_pending (a : Word) (v : Nat) : (s.write8 a v).pending = s.pending := rfl
@[simp] theorem write8_timer (a : Word) (v : Nat) : (s.write8 a v).timer = s.timer := rfl
@[simp] theorem write8_gpio (a : Word) (v : Nat) : (s.write8 a v).gpio = s.gpio := rfl
@[simp] theorem write8_serial (a : Word) (v : Nat) : (s.write8 a v).serial = s.serial := rfl
@[simp] theorem write8_reports (a : Word) (v : Nat) : (s.write8 a v).reports = s.reports := rfl

/-! `write16` -/

@[simp] theorem write16_cfg (a : Word) (v : Nat) : (s.write16 a v).cfg = s.cfg := rfl
@[simp] theorem write16_regs (a : Word) (v : Nat) : (s.write16 a v).regs = s.regs := rfl
@[simp] theorem write16_pc (a : Word) (v : Nat) : (s.write16 a v).pc = s.pc := rfl
@[simp] theorem write16_usp (a : Word) (v : Nat) : (s.write16 a v).usp = s.usp := rfl
@[simp] theorem write16_isp (a : Word) (v : Nat) : (s.write16 a v).isp = s.isp := rfl
@[simp] theorem write16_acc (a : Word) (v : Nat) : (s.write16 a v).acc = s.acc := rfl
@[simp] theorem write16_psw (a : Word) (v : Nat) : (s.write16 a v).psw = s.psw := rfl
@[simp] theorem write16_mem (a : Word) (v : Nat) : (s.write16 a v).mem = s.mem.write16 s.cfg a v := rfl
@[simp] theorem write16_pending (a : Word) (v : Nat) : (s.write16 a v).pending = s.pending := rfl
@[simp] theorem write16_timer (a : Word) (v : Nat) : (s.write16 a v).timer = s.timer := rfl
@[simp] theorem write16_gpio (a : Word) (v : Nat) : (s.write16 a v).gpio = s.gpio := rfl
@[simp] theorem write16_serial (a : Word) (v : Nat) : (s.write16 a v).serial = s.serial := rfl
@[simp] theorem write16_reports (a : Word) (v : Nat) : (s.write16 a v).reports = s.reports := rfl

/-! `write32` -/

@[simp] theorem write32_cfg (a : Word) (v : Nat) : (s.write32 a v).cfg = s.cfg := rfl
@[simp] theorem write32_regs (a : Word) (v : Nat) : (s.write32 a v).regs = s.regs := rfl
@[simp] theorem write32_pc (a : Word) (v : Nat) : (s.write32 a v).pc = s.pc := rfl
@[simp] theorem write32_usp (a : Word) (v : Nat) : (s.write32 a v).usp = s.usp := rfl
@[simp] theorem write32_isp (a : Word) (v : Nat) : (s.write32 a v).isp = s.isp := rfl
@[simp] theorem write32_acc (a : Word) (v : Nat) : (s.write32 a v).acc = s.acc := rfl
@[simp] theorem write32_psw (a : Word) (v : Nat) : (s.write32 a v).psw = s.psw := rfl
@[simp] theorem write32_mem (a : Word) (v : Nat) : (s.write32 a v).mem = s.mem.write32 s.cfg a v := rfl
@[simp] theorem write32_pending (a : Word) (v : Nat) : (s.write32 a v).pending = s.pending := rfl
@[simp] theorem write32_timer (a : Word) (v : Nat) : (s.write32 a v).timer = s.timer := rfl
@[simp] theorem write32_gpio (a : Word) (v : Nat) : (s.write32 a v).gpio = s.gpio := rfl
@[simp] theorem write32_serial (a : Word) (v : Nat) : (s.write32 a v).serial = s.serial := rfl
@[simp] theorem write32_reports (a : Word) (v : Nat) : (s.write32 a v).reports = s.reports := rfl

/-! `memReset` -/

@[simp] theorem memReset_cfg : (s.memReset).cfg = s.cfg := rfl
@[simp] theorem memReset_regs : (s.memReset).regs = s.regs := rfl
@[simp] theorem memReset_pc : (s.memReset).pc = s.pc := rfl
@[simp] theorem memReset_usp : (s.memReset).usp = s.usp := rfl
@[simp] theorem memReset_isp : (s.memReset).isp = s.isp := rfl
@[simp] theorem memReset_acc : (s.memReset).acc = s.acc := rfl
@[simp] theorem memReset_psw : (s.memReset).psw = s.psw := rfl
@[simp] theorem memReset_mem : (s.memReset).mem = s.mem.resetRam s.cfg := rfl
@[simp] theorem memReset_pending : (s.memReset).pending = s.pending := rfl
@[simp] theorem memReset_timer : (s.memReset).timer = s.timer := rfl
@[simp] theorem memReset_gpio : (s.memReset).gpio = s.gpio := rfl
@[simp] theorem memReset_serial : (s.memReset).serial = s.serial := rfl
@[simp] theorem memReset_reports : (s.memReset).reports = s.reports := rfl

/-! `cpuReset` -/

@[simp] theorem cpuReset_cfg : (s.cpuReset).cfg = s.cfg := rfl
@[simp] theorem cpuReset_regs : (s.cpuReset).regs = resetRegs := rfl
@[simp] theorem cpuReset_pc : (s.cpuReset).pc = s.read32 s.cfg.resetVectorAddr := rfl
@[simp] theorem cpuReset_usp : (s.cpuReset).usp = resetUsp := rfl
@[simp] theorem cpuReset_isp : (s.cpuReset).isp = s.cfg.ispReset := rfl
@[simp] theorem cpuReset_acc : (s.cpuReset).acc = resetAcc := rfl
@[simp] theorem cpuReset_psw : (s.cpuReset).psw = resetPsw := rfl
@[simp] theorem cpuReset_mem : (s.cpuReset).mem = s.mem := rfl
@[simp] theorem cpuReset_pending : (s.cpuReset).pending = s.pending := rfl
@[simp] theorem cpuReset_timer : (s.cpuReset).timer = s.timer := rfl
@[simp] theorem cpuReset_gpio : (s.cpuReset).gpio = s.gpio := rfl
@[simp] theorem cpuReset_serial : (s.cpuReset).serial = s.serial := rfl
@[simp] theorem cpuReset_reports : (s.cpuReset).reports = s.reports := rfl

/-! `requestInterrupt` -/

@[simp] theorem requestInterrupt_cfg (r : InterruptRequest) : (s.requestInterrupt r).cfg = s.cfg := rfl
@[simp] theorem requestInterrupt_regs (r : InterruptRequest) : (s.requestInterrupt r).regs = s.regs := rfl
@[simp] theorem requestInterrupt_pc (r : InterruptRequest) : (s.requestInterrupt r).pc = s.pc := rfl
@[simp] theorem requestInterrupt_usp (r : InterruptRequest) : (s.requestInterrupt r).usp = s.usp := rfl
@[simp] theorem requestInterrupt_isp (r : InterruptRequest) : (s.requestInterrupt r).isp = s.isp := rfl
@[simp] theorem requestInterrupt_acc (r : InterruptRequest) : (s.requestInterrupt r).acc = s.acc := rfl
@[simp] theorem requestInterrupt_psw (r : InterruptRequest) : (s.requestInterrupt r).psw = s.psw := rfl
@[simp] theorem requestInterrupt_mem (r : InterruptRequest) : (s.requestInterrupt r).mem = s.mem := rfl
@[simp] theorem requestInterrupt_pending (r : InterruptRequest) : (s.requestInterrupt r).pending = insertRequest r s.pending := rfl
@[simp] theorem requestInterrupt_timer (r : InterruptRequest) : (s.requestInterrupt r).timer = s.timer := rfl
@[simp] theorem requestInterrupt_gpio (r : InterruptRequest) : (s.requestInterrupt r).gpio = s.gpio := rfl
@[simp] theorem requestInterrupt_serial (r : InterruptRequest) : (s.requestInterrupt r).serial = s.serial := rfl
@[simp] theorem requestInterrupt_reports (r : InterruptRequest) : (s.requestInterrupt r).reports = s.reports := rfl

/-! The flag fields of `setZS` and `writeResult`, and reads through unchanged memory. -/

@[simp] theorem readOperand_imm (v : Word) : s.readOperand (.imm v) = v := rfl
@[simp] theorem readOperand_reg (r : RegIdx) : s.readOperand (.reg r) = s.readReg r := rfl

/-- A register read depends on the register file alone. -/
theorem readReg_congr {s t : State} (h : t.regs = s.regs) (r : RegIdx) : t.readReg r = s.readReg r := by
  simp only [State.readReg, h]

/-- A byte read depends on the map and the memory alone. -/
theorem read8_congr {s t : State} (hc : t.cfg = s.cfg) (hm : t.mem = s.mem) (a : Word) : t.read8 a = s.read8 a := by
  simp only [State.read8, hc, hm]

/-- What is decoded depends on the map, the memory and pc alone (R131). -/
theorem fetchDecode_congr {s t : State} (hc : t.cfg = s.cfg) (hm : t.mem = s.mem) (hp : t.pc = s.pc) :
    t.fetchDecode = s.fetchDecode := by
  simp only [State.fetchDecode, State.read8, hc, hm, hp]

end Sys2Proof.Machine.State
end

