-- ==== Sys2Proof/Laws/Exec.lean ====
section
/-! SUPPORT. What one instruction and one step can do, said once (spec/40_execution_cycle.md R130 to R136). -/

namespace Sys2Proof.Machine

/-- The register an instruction writes and the value it writes there; NOP writes none. -/
def writtenResult (i : Instr) (s : State) : Option (RegIdx × Word) :=
  match i with
  | .nop => none
  | .movImm d v => some (d, v)
  | .movReg rs d => some (d, s.readReg rs)
  | .addImm d v => some (d, s.readReg d + v)

/-- Every instruction answers a next state: its result written with its flags, pc moved by its length. -/
theorem exec_eq (i : Instr) (s : State) :
    exec i s = .next ((match writtenResult i s with
      | some (d, v) => s.writeResult d v
      | none => s).advancePc i.length) := by
  cases i <;> rfl

/-- The step at a state, by what is decoded there. -/
theorem step_instr {s : State} {i : Instr} (h : s.fetchDecode = .instr i) : step s = exec i s := by
  simp only [step, h]

theorem step_unrecognized {s : State} {b : Byte} (h : s.fetchDecode = .unrecognized b) :
    step s = .next (s.takeUnrecognized b) := by
  simp only [step, h]

/-- One step, inverted: it wrote a result with its flags, or it only moved pc (NOP), or it reported and skipped one byte. -/
theorem step_cases {s t : State} (h : step s = .next t) :
    (∃ i d v, s.fetchDecode = .instr i ∧ writtenResult i s = some (d, v) ∧ t = (s.writeResult d v).advancePc i.length) ∨
      (s.fetchDecode = .instr .nop ∧ t = s.advancePc 1) ∨
      (∃ b, s.fetchDecode = .unrecognized b ∧ t = s.takeUnrecognized b) := by
  cases hd : s.fetchDecode with
  | unrecognized b =>
    rw [step_unrecognized hd] at h
    exact .inr (.inr ⟨b, rfl, (Host.Outcome.next.inj h).symm⟩)
  | instr i =>
    rw [step_instr hd, exec_eq] at h
    cases i with
    | nop => exact .inr (.inl ⟨rfl, (Host.Outcome.next.inj h).symm⟩)
    | movImm d v => exact .inl ⟨_, d, v, rfl, rfl, (Host.Outcome.next.inj h).symm⟩
    | movReg rs d => exact .inl ⟨_, d, _, rfl, rfl, (Host.Outcome.next.inj h).symm⟩
    | addImm d v => exact .inl ⟨_, d, _, rfl, rfl, (Host.Outcome.next.inj h).symm⟩

/-- A step changes registers, pc, Z, S and REPORTS only (R144). -/
theorem step_frame {s t : State} (h : step s = .next t) :
    t.cfg = s.cfg ∧ t.usp = s.usp ∧ t.isp = s.isp ∧ t.acc = s.acc ∧ t.mem = s.mem ∧ t.pending = s.pending ∧
      t.timer = s.timer ∧ t.gpio = s.gpio ∧ t.serial = s.serial := by
  obtain ⟨i, d, v, -, -, rfl⟩ | ⟨-, rfl⟩ | ⟨b, -, rfl⟩ := step_cases h <;> simp

/-- A step's flags: as before, or Z and S from one 32-bit result. -/
theorem step_psw {s t : State} (h : step s = .next t) :
    t.psw = s.psw ∨ ∃ v, t.psw = { s.psw with Z := zeroFlag v, S := signFlag v } := by
  obtain ⟨i, d, v, -, -, rfl⟩ | ⟨-, rfl⟩ | ⟨b, -, rfl⟩ := step_cases h
  · exact .inr ⟨v, by simp⟩
  · exact .inl (by simp)
  · exact .inl (by simp)

/-- Reading a register after a write (R20). -/
theorem readReg_writeReg (s : State) (i j : RegIdx) (v : Word) :
    (s.writeReg i v).readReg j = if i = j then v else s.readReg j := by
  by_cases h : i = j
  · subst h; simp [State.readReg]
  · have : i.toNat ≠ j.toNat := fun e => h (BitVec.eq_of_toNat_eq e)
    simp [State.readReg, h, this]

end Sys2Proof.Machine
end

