-- ==== Sys2Proof/Laws/Memory.lean ====
section
/-! SUPPORT. Every memory operation keeps the canonical form, and what each leaves at each address (spec/20_memory.md R53 to R66). -/

namespace Sys2Proof.Machine.Memory

variable {c : Config}

/-! Listing and unlisting one address. -/

theorem find_insert (a : Nat) (b : Byte) (m : Memory) (x : Nat) :
    (Memory.insert a b m).find x = if a = x then some b else m.find x := by
  induction m with
  | nil => simp [Memory.insert, Memory.find]
  | cons cell m ih =>
    obtain ⟨k, v⟩ := cell
    by_cases hak : a < k
    · simp [Memory.insert, Memory.find, hak]
    · by_cases heq : a = k
      · subst heq
        by_cases hx : a = x <;> simp [Memory.insert, Memory.find, hx]
      · by_cases hx : k = x
        · subst hx; simp [Memory.insert, Memory.find, hak, heq]
        · simp [Memory.insert, Memory.find, hak, heq, hx, ih]

theorem find_filter (p : Nat → Bool) (m : Memory) (x : Nat) :
    Memory.find (m.filter (fun cell => p cell.1)) x = if p x then m.find x else none := by
  induction m with
  | nil => simp [Memory.find]
  | cons cell m ih =>
    obtain ⟨k, v⟩ := cell
    by_cases hk : p k = true
    · by_cases hx : k = x
      · subst hx; simp [Memory.find, hk]
      · simp [Memory.find, hk, hx, ih]
    · by_cases hx : k = x
      · subst hx; simp [hk, ih]
      · simp [Memory.find, hk, hx, ih]

theorem find_erase (a : Nat) (m : Memory) (x : Nat) :
    (Memory.erase a m).find x = if a = x then none else m.find x := by
  have h := find_filter (fun k => decide (k ≠ a)) m x
  rw [Memory.erase, h]
  by_cases hx : x = a
  · subst hx; simp
  · simp [hx, Ne.symm hx]

/-- A buffer cell after one cell was set. -/
theorem get_set (m : Memory) (a : Nat) (b : Byte) (x : Nat) :
    (m.set c a b).get c x = if a = x then b else m.get c x := by
  unfold Memory.set
  split
  · next h =>
    by_cases hx : a = x
    · subst hx; simp [Memory.get, find_erase, ← h]
    · simp [Memory.get, find_erase, hx]
  · by_cases hx : a = x <;> simp [Memory.get, find_insert, hx]

/-! The canonical form. -/

theorem mem_insert {a : Nat} {b : Byte} {m : Memory} {cell : Host.Cell} (h : cell ∈ Memory.insert a b m) :
    cell = (a, b) ∨ cell ∈ m := by
  induction m with
  | nil => simpa [Memory.insert] using h
  | cons x m ih =>
    obtain ⟨k, v⟩ := x
    unfold Memory.insert at h
    split at h
    · simpa using h
    · split at h
      · rcases List.mem_cons.1 h with h | h
        · exact .inl h
        · exact .inr (List.mem_cons_of_mem _ h)
      · rcases List.mem_cons.1 h with h | h
        · exact .inr (by simp [h])
        · rcases ih h with h | h
          · exact .inl h
          · exact .inr (List.mem_cons_of_mem _ h)

theorem insert_rising {a : Nat} {b : Byte} {m : Memory} (h : (m.map Prod.fst).Pairwise (· < ·)) :
    ((Memory.insert a b m).map Prod.fst).Pairwise (· < ·) := by
  induction m with
  | nil => simp [Memory.insert]
  | cons x m ih =>
    obtain ⟨k, v⟩ := x
    simp only [List.map_cons, List.pairwise_cons] at h
    unfold Memory.insert
    split
    · next hlt =>
      simp only [List.map_cons, List.pairwise_cons, List.mem_cons]
      refine ⟨?_, h.1, h.2⟩
      rintro y (rfl | hy)
      · exact hlt
      · exact Nat.lt_trans hlt (h.1 y hy)
    · split
      · next _ heq =>
        subst heq
        simpa using h
      · next hnlt hne =>
        simp only [List.map_cons, List.pairwise_cons]
        refine ⟨?_, ih h.2⟩
        intro y hy
        obtain ⟨cell, hcell, rfl⟩ := List.mem_map.1 hy
        rcases mem_insert hcell with rfl | hm
        · exact Nat.lt_of_le_of_ne (Nat.le_of_not_lt hnlt) (Ne.symm hne)
        · exact h.1 _ (List.mem_map_of_mem hm)

theorem filter_wf (p : Host.Cell → Bool) {m : Memory} (h : m.wf c) : Memory.wf c (m.filter p) := by
  refine ⟨?_, fun cell hc => h.2 cell (List.mem_of_mem_filter hc)⟩
  exact List.Pairwise.sublist ((List.filter_sublist).map Prod.fst) h.1

theorem set_wf {m : Memory} {a : Nat} {b : Byte} (ha : c.Mapped a) (h : m.wf c) : (m.set c a b).wf c := by
  unfold Memory.set
  split
  · exact filter_wf _ h
  · next hb =>
    refine ⟨insert_rising h.1, fun cell hc => ?_⟩
    rcases mem_insert hc with rfl | hm
    · exact ⟨ha, hb⟩
    · exact h.2 cell hm

theorem write8_wf {m : Memory} (a : Word) (v : Nat) (h : m.wf c) : (m.write8 c a v).wf c := by
  unfold Memory.write8
  split
  · next ha => exact set_wf ha h
  · exact h

theorem write16_wf {m : Memory} (a : Word) (v : Nat) (h : m.wf c) : (m.write16 c a v).wf c :=
  write8_wf _ _ (write8_wf _ _ h)

theorem write32_wf {m : Memory} (a : Word) (v : Nat) (h : m.wf c) : (m.write32 c a v).wf c :=
  write8_wf _ _ (write8_wf _ _ (write8_wf _ _ (write8_wf _ _ h)))

theorem resetRam_wf {m : Memory} (h : m.wf c) : (m.resetRam c).wf c := filter_wf _ h

/-- The copying loop keeps the form when every address from `a` up to `last` is mapped. -/
theorem copyIn_wf {last : Nat} {data : List Byte} {a : Nat} {m : Memory} (hm : ∀ x, a ≤ x → x ≤ last → c.Mapped x)
    (h : m.wf c) : (Memory.copyIn c last a data m).wf c := by
  induction data generalizing a m with
  | nil => exact h
  | cons b bs ih =>
    unfold Memory.copyIn
    apply ih (fun x hx => hm x (Nat.le_of_succ_le hx))
    split
    · next hl => exact set_wf (hm a (Nat.le_refl a) hl) h
    · exact h

theorem load_wf {m m' : Memory} {data : List Byte} {offset : Nat} (h : m.wf c) (hl : m.load c data offset = some m') :
    m'.wf c := by
  unfold Memory.load at hl
  split at hl
  · next hr =>
    obtain rfl := Option.some.inj hl
    exact copyIn_wf (fun x h1 h2 => .inl ⟨Nat.le_trans hr.1 h1, h2⟩) h
  · split at hl
    · next hr =>
      obtain rfl := Option.some.inj hl
      exact copyIn_wf (fun x h1 h2 => .inr ⟨Nat.le_trans hr.1 h1, h2⟩) h
    · cases hl

theorem empty_wf : Memory.wf c [] := by simp [Memory.wf]

theorem reset_wf : State.reset.mem.wf State.reset.cfg := empty_wf

/-! What each operation leaves at each address. -/

/-- A byte after a byte write, at every address (R59, R62). -/
theorem read8_write8 (m : Memory) (a : Word) (v : Nat) (x : Word) :
    (m.write8 c a v).read8 c x = if a = x ∧ c.Mapped a.toNat then byteOf v 0 else m.read8 c x := by
  unfold Memory.write8
  by_cases ha : c.Mapped a.toNat
  · rw [if_pos ha]
    by_cases hx : a = x
    · subst hx
      simp only [Memory.read8, get_set, and_self, if_true, ha]
    · have hne : a.toNat ≠ x.toNat := fun h => hx (BitVec.eq_of_toNat_eq h)
      simp [Memory.read8, get_set, hx, hne]
  · rw [if_neg ha, if_neg (fun h => ha h.2)]

/-- A byte write to an unmapped address is no write (R62). -/
theorem write8_unmapped (m : Memory) {a : Word} (v : Nat) (h : ¬ c.Mapped a.toNat) : m.write8 c a v = m := by
  rw [Memory.write8, if_neg h]

theorem read8_unmapped (m : Memory) {a : Word} (h : ¬ c.Mapped a.toNat) : m.read8 c a = 0 := by
  rw [Memory.read8, if_neg h]

/-- A cell after the copying loop of `load`. -/
theorem get_copyIn (last : Nat) (data : List Byte) (a : Nat) (m : Memory) (x : Nat) :
    (Memory.copyIn c last a data m).get c x =
      if a ≤ x ∧ x < a + data.length ∧ x ≤ last then data.getD (x - a) 0 else m.get c x := by
  induction data generalizing a m with
  | nil =>
    have : ¬ (a ≤ x ∧ x < a + ([] : List Byte).length ∧ x ≤ last) := by simp; omega
    rw [if_neg this, Memory.copyIn]
  | cons b bs ih =>
    rw [Memory.copyIn, ih]
    by_cases hx : a = x
    · subst hx
      have h1 : ¬ (a + 1 ≤ a ∧ a < a + 1 + bs.length ∧ a ≤ last) := by omega
      rw [if_neg h1]
      by_cases hl : a ≤ last
      · simp [hl, get_set]
      · simp [hl]
    · have hget : (if a ≤ last then m.set c a b else m).get c x = m.get c x := by
        split
        · rw [get_set, if_neg hx]
        · rfl
      rw [hget]
      by_cases hin : a + 1 ≤ x ∧ x < a + 1 + bs.length ∧ x ≤ last
      · have h2 : a ≤ x ∧ x < a + (b :: bs).length ∧ x ≤ last := by simp; omega
        rw [if_pos hin, if_pos h2]
        have h3 : x - a = (x - (a + 1)) + 1 := by omega
        rw [h3, List.getD_cons_succ]
      · have h2 : ¬ (a ≤ x ∧ x < a + (b :: bs).length ∧ x ≤ last) := by simp; omega
        rw [if_neg hin, if_neg h2]

/-- A cell after `mem.reset()` (R65). -/
theorem get_resetRam (m : Memory) (x : Nat) :
    (m.resetRam c).get c x = if c.InRAM x then Memory.unlisted c x else m.get c x := by
  have h := find_filter (fun k => decide (¬ c.InRAM k)) m x
  unfold Memory.get Memory.resetRam
  rw [h]
  by_cases hx : c.InRAM x
  · have hd : (decide (¬ c.InRAM x)) = false := decide_eq_false (not_not_intro hx)
    rw [hd, if_pos hx]
    rfl
  · have hd : (decide (¬ c.InRAM x)) = true := decide_eq_true hx
    rw [hd, if_neg hx]
    rfl

end Sys2Proof.Machine.Memory
end

