-- ==== Sys2Proof/Laws/Host.lean ====
section
/-! SUPPORT. What each host-side operation with more than one case can do (spec/20_memory.md R66; spec/60_exceptions.md R202, R205, R228;
spec/70_reset_and_hazards.md R261). -/

namespace Sys2Proof.Machine

/-- `cpu.reset()` at power-on writes the values that R41 lists as the power-on ones. -/
theorem cpuReset_powerOn (c : Config) : (State.powerOn c).cpuReset = State.powerOn c := rfl

/-- `load` copied into a window, or reported and changed nothing else (R66). -/
theorem load_cases (s : State) (data : List Byte) (offset : Nat) :
    (∃ m, s.mem.load s.cfg data offset = some m ∧ s.load data offset = { s with mem := m }) ∨
      (s.mem.load s.cfg data offset = none ∧ s.load data offset = s.report (.loadOutOfWindow offset data.length)) := by
  cases h : s.mem.load s.cfg data offset with
  | none => exact .inr ⟨rfl, by simp only [State.load, h]⟩
  | some m => exact .inl ⟨m, rfl, by simp only [State.load, h]⟩

/-- `popNext` on an empty queue, or its first request (R205). -/
theorem popNext_cases (s : State) :
    (s.pending = [] ∧ s.popNext = (none, s)) ∨
      ∃ r rest, s.pending = r :: rest ∧ s.popNext = (some r, { s with pending := rest }) := by
  cases h : s.pending with
  | nil => exact .inl ⟨rfl, by simp only [State.popNext, h]⟩
  | cons r rest => exact .inr ⟨r, rest, rfl, by simp only [State.popNext, h]⟩

/-- A tick touches the counter and the queue only (R228). -/
theorem timerTick_cases (s : State) (n : Nat) :
    s.timerTick n = s ∨
      (∃ v, s.timerTick n = { s with timer := { s.timer with CNT := v } }) ∨
      s.timerTick n = { s with timer := { s.timer with CNT := 0 }, pending := insertRequest s.timerRequest s.pending } := by
  unfold State.timerTick
  split
  · split
    · split
      · exact .inr (.inr rfl)
      · exact .inr (.inl ⟨0, rfl⟩)
    · exact .inr (.inl ⟨_, rfl⟩)
  · exact .inl rfl

/-- The two halves of the queue around a new request, when it is in order (R202). -/
theorem countP_split {r : InterruptRequest} {q : List InterruptRequest} (h : PendingSorted q) :
    (∀ x ∈ q.take (q.countP (fun p => decide (r.priority ≤ p.priority))), r.priority ≤ x.priority) ∧
      ∀ x ∈ q.drop (q.countP (fun p => decide (r.priority ≤ p.priority))), x.priority < r.priority := by
  induction q with
  | nil => simp
  | cons a q ih =>
    rw [PendingSorted, List.pairwise_cons] at h
    by_cases ha : r.priority ≤ a.priority
    · rw [List.countP_cons_of_pos (by simpa using ha), List.take_succ_cons, List.drop_succ_cons]
      refine ⟨fun x hx => ?_, (ih h.2).2⟩
      rcases List.mem_cons.1 hx with rfl | hx
      · exact ha
      · exact (ih h.2).1 x hx
    · have hz : q.countP (fun p => decide (r.priority ≤ p.priority)) = 0 := by
        rw [List.countP_eq_zero]
        intro x hx
        have := h.1 x hx
        simp; omega
      rw [List.countP_cons_of_neg (by simpa using ha), hz]
      refine ⟨by simp, fun x hx => ?_⟩
      rw [List.drop_zero] at hx
      rcases List.mem_cons.1 hx with rfl | hx
      · omega
      · have := h.1 x hx
        omega

/-- A request keeps the queue in order (R203). -/
theorem insertRequest_sorted {r : InterruptRequest} {q : List InterruptRequest} (h : PendingSorted q) :
    PendingSorted (insertRequest r q) := by
  obtain ⟨h1, h2⟩ := countP_split (r := r) h
  unfold insertRequest PendingSorted
  simp only [List.append_assoc, List.pairwise_append, List.singleton_append, List.pairwise_cons, List.mem_cons]
  refine ⟨h.sublist (List.take_sublist _ _), ⟨fun x hx => Nat.le_of_lt (h2 x hx), h.sublist (List.drop_sublist _ _)⟩, ?_⟩
  rintro a ha b (rfl | hb)
  · exact h1 a ha
  · exact Nat.le_trans (Nat.le_of_lt (h2 b hb)) (h1 a ha)

end Sys2Proof.Machine
end

