-- ==== Sys2Proof/Laws/PerInstr.lean ====
section
/-! SUPPORT. Facts stated per instruction, one lemma per constructor of Instr (spec/30_encoding.md R90 to R95). -/

namespace Sys2Proof.Laws.EncodingShape

/-- The encoding of the instruction has its length, which is 1, 2, 6 or 7 (R90), its first byte is its row's opcode byte (R102), and it
is well-formed. -/
def Statement (i : Instr) : Prop :=
  i.wellFormed = true ∧ (encode i).length = i.length ∧ i.length ∈ [1, 2, 6, 7] ∧
    ∃ r ∈ opcodeRows, r.mnemonic = i.mnemonic ∧ r.length = i.length ∧ r.cycles = i.cycles ∧ (encode i).head? = r.pattern.head?

theorem nop : Statement .nop := by
  refine ⟨rfl, rfl, by decide, ?_⟩
  exact ⟨_, .head _, rfl, rfl, rfl, rfl⟩

theorem movImm (d : RegIdx) (v : Word) : Statement (.movImm d v) := by
  refine ⟨rfl, rfl, ?_, ?_⟩
  · simp [Instr.length]
  · exact ⟨_, .tail _ (.head _), rfl, rfl, rfl, rfl⟩

theorem movReg (rs d : RegIdx) : Statement (.movReg rs d) := by
  refine ⟨rfl, rfl, ?_, ?_⟩
  · simp [Instr.length]
  · exact ⟨_, .tail _ (.tail _ (.head _)), rfl, rfl, rfl, rfl⟩

theorem addImm (d : RegIdx) (v : Word) : Statement (.addImm d v) := by
  refine ⟨rfl, rfl, ?_, ?_⟩
  · simp [Instr.length]
  · exact ⟨_, .tail _ (.tail _ (.tail _ (.head _))), rfl, rfl, rfl, rfl⟩

end Sys2Proof.Laws.EncodingShape
end

