-- ==== Sys2Proof/Laws/Run.lean ====
section
/-! SUPPORT. Runs of steps: Host.Core.run unrolled once (spec/40_execution_cycle.md R130, R137). -/

namespace Sys2Proof.Machine

/-- `k + 1` steps are one step and then `k`. -/
theorem run_succ {s t : State} (h : step s = .next t) (k : Nat) : Sys2Proof.core.run (k + 1) s = Sys2Proof.core.run k t := by
  have h' : Sys2Proof.core.step s = .next t := h
  have e := Host.Core.run.eq_2 Sys2Proof.core s k
  rw [h'] at e
  exact e

/-- The cycles of `k + 1` steps are those of one step and then of `k`. -/
theorem cyclesOver_succ {s t : State} (h : step s = .next t) (k : Nat) :
    cyclesOver (k + 1) s = s.stepCycles + cyclesOver k t := by
  simp only [cyclesOver, h]

end Sys2Proof.Machine
end

