-- ==== Sys2Proof/Tests/Slice0.lean ====
section
/-! SUPPORT. The model's own tests. Expected values are those of spec/95_test_vectors.md (named by their ids) or read off the encoding
tables of spec/30_encoding.md; then one witness for each statement that has hypotheses, clause by clause. -/

namespace Sys2Proof.Tests

open Machine

/-- A field of the next state, if there is one. -/
def after {α : Type} (o : Host.Outcome State Fault Refusal) (f : State → α) : Option α :=
  match o with
  | .next t => some (f t)
  | .fault _ => none
  | .refused _ => none

/-- MAP_SMALL after reset, with code in RAM at 0x1000, pc there, and one register set. -/
def codeAt (bytes : List Byte) (r : RegIdx) (v : Word) : State :=
  ({ State.reset with pc := 0x1000 }.load bytes 0x1000).writeReg r v

/-- MAP_RX at power-on with a given pc. -/
def rxAt (pc : Word) : State := { State.powerOn mapRx with pc := pc }

/-! ### Well-formedness: a term each check refuses -/

theorem test_mapSmall_valid : mapSmall.Valid ∧ mapSmall.BoundaryUnmapped ∧ mapSmall.Bootable := by decide
theorem test_ram_reversed_refused : ¬ Config.Valid { mapSmall with ramStart := 0x2000, ispReset := 0x2000 } := by decide
theorem test_rom_reversed_refused : ¬ Config.Valid { mapSmall with romStart := 0x9000 } := by decide
theorem test_overlap_refused : ¬ Config.Valid { mapSmall with romStart := 0x1FFF } := by decide
theorem test_isp_refused : ¬ Config.Valid { mapSmall with ispReset := 0x2001 } := by decide
theorem test_mapRx_boundary_refused : mapRx.Valid ∧ ¬ mapRx.BoundaryUnmapped := by decide
theorem test_unbacked_vector_refused : ¬ Config.Bootable { mapSmall with resetVectorAddr := 0x8FFD } := by decide
theorem test_device_in_ram_refused : ¬ Config.DevicesUnmapped { mapSmall with periph1Start := 0x1FFF } :=
  fun h => h 0x1FFF (by decide) (by decide)

/-! ### Decoding and encoding -/

/-- E1, E2, E3, E4, E5, E6. -/
theorem test_decode_vectors :
    decodeList [0b00000011] = .instr .nop ∧
      decodeList [0b11111011, 0b00010010, 0b00001111, 0xEF, 0xBE, 0xAD, 0xDE] = .instr (.movImm 15 0xDEADBEEF) ∧
      decodeList [0b11001111, 0b00000000] = .instr (.movReg 0 0) ∧ decodeList [0b11001111, 0b11111111] = .instr (.movReg 15 15) ∧
      decodeList [0b11001111, 0b01011010] = .instr (.movReg 5 10) ∧
      decodeList [0b01110010, 0b00101010, 1, 0, 0, 0] = .instr (.addImm 10 1) := by decide

/-- E7, E8, E9. -/
theorem test_decode_fixed_nibbles :
    decodeList [0xFB, 0x13, 0] = .unrecognized 0xFB ∧ decodeList [0xFB, 0x12, 0x10] = .unrecognized 0xFB ∧
      decodeList [0x72, 0x31] = .unrecognized 0x72 ∧ decodeList [0x72, 0x02] = .unrecognized 0x72 := by decide

/-- E10. -/
theorem test_decode_neighbours :
    ∀ b ∈ ([0x00, 0xFF, 0x02, 0x04, 0xCE, 0xD0, 0x71, 0x73, 0xFA, 0xFC] : List Byte), decodeList [b] = .unrecognized b := by decide

/-- E12: the same bytes from offset 3 are four NOPs. -/
theorem test_decode_not_self_synchronising :
    decodeStream [0xFB, 0x12, 0x00, 3, 3, 3, 3] = [.instr (.movImm 0 0x03030303)] ∧
      decodeStream [3, 3, 3, 3] = List.replicate 4 (.instr .nop) := by decide

/-- S1, S2, S3, P1. -/
theorem test_encode_vectors :
    encode (.movImm 4 0x80000000) = [0xFB, 0x12, 0x04, 0, 0, 0, 0x80] ∧ encode (.movReg 7 9) = [0xCF, 0x79] ∧
      encode (.addImm 2 0xFFFFFFF6) = [0x72, 0x22, 0xF6, 0xFF, 0xFF, 0xFF] ∧ encode .nop = [0x03] := by decide

/-- The table's own numbering of its rows, and the other one (log 30). -/
theorem test_table_words :
    decodeTableWord 8 0x03 = some .nop ∧ decodeTableWord 16 0xCF12 = some (.movReg 1 2) ∧
      decodeTableWord 16 0x12CF = some (.movReg 1 2) ∧ decodeTableWord 24 0xFB1203 = some (.movImm 3 0) ∧
      decodeTableWord 16 0x7225 = some (.addImm 5 0) ∧ decodeTableWord 8 0x00 = none := by decide

/-- The first step after reset runs the placed instruction, and pc moved to ROM, where it can be stored (log 31). -/
theorem test_withFetchWord_runs_first :
    after (step (State.reset.withFetchWord 8 0x03)) State.pc = some 0x8001 ∧
      after (step (State.reset.withFetchWord 16 0xCF12)) State.pc = some 0x8002 ∧
      after (step (State.reset.withFetchWord 56 0xFB120578563412)) (fun t => t.readReg 5) = some 0x12345678 ∧
      after (step (State.reset.withFetchWord 48 0x722503000000)) (fun t => t.readReg 5) = some 3 := by decide

/-! ### The instructions -/

/-- N1. -/
theorem test_nop : after (step (codeAt [0x03] 2 7)) (fun t => (t.pc, t.readReg 2, t.reports)) = some (0x1001, 7, []) := by decide

/-- N2: pc wraps at the top of the address space. -/
theorem test_nop_wraps : after (step (rxAt 0xFFFFFFFF)) State.pc = some 0 := by decide

/-- MV1. -/
theorem test_movImm :
    after (step (codeAt [0xFB, 0x12, 0x01, 0x78, 0x56, 0x34, 0x12] 1 0x55)) (fun t => (t.readReg 1, t.psw.Z, t.psw.S, t.pc)) =
      some (0x12345678, false, false, 0x1007) := by decide

/-- MV4: r0 is an ordinary register. -/
theorem test_movImm_r0 :
    after (step (codeAt [0xFB, 0x12, 0x00, 0xFF, 0xFF, 0xFF, 0xFF] 1 0)) (fun t => (t.readReg 0, t.psw.S, t.isp, t.usp)) =
      some (0xFFFFFFFF, true, 0x2000, 0) := by decide

/-- MV6. -/
theorem test_movReg :
    after (step (codeAt [0xCF, 0x12] 1 0x80000001)) (fun t => (t.readReg 2, t.readReg 1, t.psw.Z, t.psw.S, t.pc)) =
      some (0x80000001, 0x80000001, false, true, 0x1002) := by decide

/-- MV9: the second byte wraps to address 0. -/
theorem test_movReg_across_the_top :
    after (step (((rxAt 0xFFFFFFFF).write8 0xFFFFFFFF 0xCF).write8 0 0x12 |>.writeReg 1 0x77)) (fun t => (t.readReg 2, t.pc)) =
      some (0x77, 1) := by decide

/-- AD2: the sum wraps, C stays. -/
theorem test_addImm_wraps :
    after (step (codeAt [0x72, 0x21, 1, 0, 0, 0] 1 0xFFFFFFFF)) (fun t => (t.readReg 1, t.psw.Z, t.psw.S, t.psw.C, t.pc)) =
      some (0, true, false, false, 0x1006) := by decide

/-- AD3: signed overflow sets S and leaves O. -/
theorem test_addImm_signed_overflow :
    after (step (codeAt [0x72, 0x22, 1, 0, 0, 0] 2 0x7FFFFFFF)) (fun t => (t.readReg 2, t.psw.Z, t.psw.S, t.psw.O)) =
      some (0x80000000, false, true, false) := by decide

/-- X1, and P2 (a): the byte at the unseeded reset vector. -/
theorem test_unrecognized :
    after (step (codeAt [] 1 7)) (fun t => (t.pc, t.readReg 1, t.reports)) = some (0x1001, 7, [.unrecognizedOpcode 0x1000 0]) ∧
      State.reset.pc = 0x03030303 ∧ after (step State.reset) State.reports = some [.unrecognizedOpcode 0x03030303 0] := by decide

/-- E11: an instruction completed by the zeros of unmapped space. -/
theorem test_fetch_past_the_end_of_ram :
    State.fetchDecode ({ State.reset with pc := 0x1FFD }.load [0xFB, 0x12, 0x03] 0x1FFD) = .instr (.movImm 3 0) := by decide

/-- X6, X7, X5: run(3) overshoots by one, run(1) by one, run(0) does nothing. -/
theorem test_run :
    after (run 3 (codeAt [0xFB, 0x12, 1, 1, 0, 0, 0, 0xFB, 0x12, 2, 2, 0, 0, 0] 0 0)) (fun t => (t.readReg 2, t.pc)) =
        some (2, 0x100E) ∧
      after (run 1 (codeAt [0xFB, 0x12, 1, 1, 0, 0, 0] 0 0)) State.pc = some 0x1007 ∧ after (run 0 (codeAt [] 0 0)) State.pc = some 0x1000 := by
  decide

/-! ### Memory -/

/-- M3, M4, M6. -/
theorem test_memory_words :
    (State.reset.write32 0x1000 0x11223344).read16 0x1001 = 0x2233 ∧
      (State.reset.load [0xAA, 0xBB] 0x1FFE).read32 0x1FFE = 0x0000BBAA ∧ State.reset.read32 0x8FFE = 0x00000303 := by decide

/-- M7, M8, M10, M11, M12, M14. -/
theorem test_memory_edges :
    (State.reset.load [1, 2, 3, 4] 0x1FFE).mem = [(0x1FFE, 1), (0x1FFF, 2)] ∧
      (State.reset.load [1] 0x2000).reports = [.loadOutOfWindow 0x2000 1] ∧
      ((State.reset.write8 0x8000 0x55).write8 0x1000 0x44).memReset.mem = [(0x8000, 0x55)] ∧
      (rxAt 0).read32 0xFFFFFFFE = 0x00000303 ∧ ((rxAt 0).load [0xAA, 0xBB] 0xFFFFFFFF).mem = [(0xFFFFFFFF, 0xAA)] ∧
      (State.reset.write8 0x1000 0x1FF).read8 0x1000 = 0xFF := by decide

/-- Writing the power-on byte removes the entry. -/
theorem test_memory_canonical : ((State.reset.write8 0x8000 5).write8 0x8000 3).mem = [] := by decide

/-! ### Controller and peripherals -/

/-- I1. -/
theorem test_interrupt_order :
    (([⟨10, 3, .label 0⟩, ⟨11, 3, .label 1⟩, ⟨12, 7, .label 2⟩, ⟨13, 3, .label 3⟩, ⟨14, 0, .label 4⟩] : List InterruptRequest).foldl
      State.requestInterrupt State.reset).pending.map InterruptRequest.vector = [12, 10, 11, 13, 14] := by decide

/-- I4, I5, I6. -/
theorem test_vectors :
    State.reset.getVectorAddress 28 = 0x8FF0 ∧ (rxAt 0).getVectorAddress 32 = 0 ∧ State.reset.resolveVector 28 = 0x03030303 ∧
      (State.reset.load [0x00, 0x11, 0, 0] 0x8FF0).resolveVector 28 = 0x1100 := by decide

/-- The timer "on" of part V-TMR. -/
def timerOn : State := (State.reset.periphWrite8 .timer 8 1).periphWrite8 .timer 9 1

/-- T1, T2, T4, T5. -/
theorem test_timer_tick :
    ((timerOn.timerTick 999).timer.CNT, (timerOn.timerTick 999).pending) = (999, []) ∧
      ((timerOn.timerTick 2500).timer.CNT, (timerOn.timerTick 2500).pending) = (0, [⟨28, 3, .timer⟩]) ∧
      State.reset.timerTick 5000 = State.reset ∧ ((timerOn.periphWrite32 .timer 4 0).timerTick 0).pending = [⟨28, 3, .timer⟩] := by
  decide

/-- T6, T8, T9, T10. -/
theorem test_timer_registers :
    State.reset.periphRead .timer .w32 4 = 1000 ∧ State.reset.periphRead .timer .w8 5 = 3 ∧
      ((State.reset.periphWrite32 .timer 0 0xAABBCCDD).periphWrite32 .timer 4 0x10).periphRead .timer .w32 2 = 0x0010AABB ∧
      (((timerOn.periphWrite32 .timer 0 0xFFFFFFF0).periphWrite32 .timer 4 0xFFFFFFFF).timerTick 0x0E).timer.CNT = 0xFFFFFFFE ∧
      (((timerOn.periphWrite32 .timer 0 0xFFFFFFF0).periphWrite32 .timer 4 0xFFFFFFFF).timerTick 0x20).timer.CNT = 0 := by decide

/-- G2, G3, G4, G5. -/
theorem test_gpio :
    let g : State := (State.reset.periphWrite8 .gpio 0 0x0F).periphWrite8 .gpio 1 0xA5
    let h : State := { g with gpio := g.gpio.setInputBit 3 1 }
    (List.range 9).map g.gpio.getOutputBit = [true, false, true, false, false, true, false, true, false] ∧
      h.periphRead .gpio .w32 0 = 0x0008A50F ∧ (h.periphWrite8 .gpio 2 0xFF).gpio.IN = 0x08 ∧
      (h.periphWrite32 .gpio 0 0x11223344).gpio = ⟨0x44, 0x33, 0x08⟩ := by decide

/-- Q1, Q2, Q3, Q4. -/
theorem test_serial :
    let s : State := (State.reset.periphWrite8 .serial 0 0x48).periphWrite8 .serial 0 0x69
    (s.periphWrite16 .serial 0 0x4142).serial.LOG = [0x48, 0x69, 0x42] ∧ s.periphWrite8 .serial 1 0x43 = s ∧
      s.periphRead .serial .w32 0 = 0 ∧ (s.periphReset .serial).serial.LOG = [0x48, 0x69] := by decide

/-! ### The assembler -/

/-- A3, A4, A7. -/
theorem test_assembler_lines :
    assembleLine "mov.l #0x10, r2".toList = .instr (.movImm 2 0x10) ∧ assembleLine "MOV.L R1, SP".toList = .instr (.movReg 1 0) ∧
      assembleLine "ADD.L #0XFFFFFFF6,R2".toList = .instr (.addImm 2 0xFFFFFFF6) ∧ assembleLine "; comment".toList = .skip := by decide

/-- A9, A10, A11, A12, A13. -/
theorem test_assembler_errors :
    assembleLine "MOV.L #1, R16".toList = .error .badRegister ∧ assembleLine "MOV.L PC, R1".toList = .error .badRegister ∧
      assembleLine "MOV #1, R1".toList = .error .noMatch ∧ assembleLine "ADD.L R1, R2".toList = .error .noMatch ∧
      assembleLine "NOP R1".toList = .error .noMatch ∧ assembleLine "MOV.L 5, R1".toList = .error .noMatch := by decide

/-- S8: a partial failure names line 2 and keeps line 1. -/
theorem test_assembler_partial_failure :
    assemble "MOV.L #1, R1\nMOV.L R99, R1".toList =
      { code := [0xFB, 0x12, 1, 1, 0, 0, 0], errors := [{ line := 2, reason := .badRegister }] } := by decide

/-! ### Witnesses: the hypotheses of each statement hold together somewhere -/

/-- pc at the first address of untouched ROM. -/
def romStart : State := { State.reset with pc := 0x8000 }

theorem witness_instructions_change_only_their_destination :
    ∃ t, exec (.movReg 1 2) State.reset = .next t ∧ (Instr.movReg 1 2).dest ≠ some 0 := ⟨_, rfl, by decide⟩
theorem witness_unrecognized : State.reset.fetchDecode = .unrecognized 0 := by decide
theorem witness_step_runs_nop : Instr.wellFormed .nop = true ∧ romStart.HoldsAtPc .nop := by decide
theorem witness_step_runs_movImm : (codeAt [0xFB, 0x12, 0x01, 0x78, 0x56, 0x34, 0x12] 0 0).HoldsAtPc (.movImm 1 0x12345678) := by decide
theorem witness_step_next_instr : romStart.fetchDecode = .instr .nop ∧ ∃ t, step romStart = .next t := ⟨by decide, _, rfl⟩
theorem witness_step_next_unrecognized : ∃ t, step State.reset = .next t := ⟨_, rfl⟩
theorem witness_step_ignores :
    let s₁ : State := romStart
    let s₂ : State := { romStart with pending := [⟨9, 7, .timer⟩], psw := { resetPsw with I := true, IPL := 5 } }
    s₁.cfg = s₂.cfg ∧ s₁.mem = s₂.mem ∧ s₁.regs = s₂.regs ∧ s₁.pc = s₂.pc ∧ s₁.psw.Z = s₂.psw.Z ∧ s₁.psw.S = s₂.psw.S ∧
      (∃ t, step s₁ = .next t) ∧ ∃ t, step s₂ = .next t :=
  ⟨rfl, rfl, rfl, rfl, rfl, rfl, ⟨_, rfl⟩, ⟨_, rfl⟩⟩
theorem witness_decode_of_encode :
    Instr.wellFormed (.addImm 15 0xFFFFFFFF) = true ∧
      ∀ k, k < (Instr.addImm 15 0xFFFFFFFF).length →
        (fun k => ([0x72, 0x2F, 0xFF, 0xFF, 0xFF, 0xFF, 0x99] : List Byte).getD k 0) k = (encode (.addImm 15 0xFFFFFFFF)).getD k 0 := by
  decide
theorem witness_encoding_unique : decode (fun k => ([0xCF, 0xF0] : List Byte).getD k 0) = .instr (.movReg 15 0) := by decide
/-- One byte string for each of the three ways of R100, at the value next to the pattern's. -/
theorem witness_unrecognized_space :
    decodeList [0x04] = .unrecognized 0x04 ∧ decodeList [0xFB, 0x11] = .unrecognized 0xFB ∧
      decodeList [0xFB, 0x12, 0x10] = .unrecognized 0xFB ∧ decodeList [0x72, 0x1F] = .unrecognized 0x72 ∧
      decodeList [0x72, 0x30] = .unrecognized 0x72 := by decide
theorem witness_pattern_hits :
    ∀ r ∈ opcodeRows, ∃ b ∈ ([[0x03], [0xFB, 0x12, 0x0F], [0xCF], [0x72, 0x2F]] : List (List Byte)), r.hits (fun k => b.getD k 0) = true := by
  decide
theorem witness_pattern_table :
    (opcodeRows.find? (fun r => r.hits (fun _ => 0x03))).isSome ∧ opcodeRows.find? (fun r => r.hits (fun _ => 0x00)) = none := by decide
theorem witness_disassembly :
    Instr.wellFormed (.movImm 10 0xDEADBEEF) = true ∧ disassemble (.instr (.movImm 10 0xDEADBEEF)) = "MOV.L #0xDEADBEEF, R10".toList := by
  decide
theorem witness_launch :
    (assemble "MOV.L R99, R1".toList).errors ≠ [] ∧ (assemble "NOP".toList).errors = [] ∧ State.reset.cfg.Valid ∧
      State.reset.cfg.Bootable ∧ 0x8000 < 2 ^ 32 := by decide
theorem witness_invariants :
    State.reset.Inv ∧ State.reset.FlagsConsistent ∧ State.reset.ControlAtReset ∧ ∃ t, step State.reset = .next t :=
  ⟨by decide, by decide, by decide, _, rfl⟩
theorem witness_operation : ∃ t r, HostOp.popNext ≠ .cpuReset ∧ serve .popNext State.reset = .next (t, r) := ⟨_, _, by decide, rfl⟩
theorem witness_serial_write : ∃ t r, serve (.periphWrite .serial .w8 0 0x4F) State.reset = .next (t, r) ∧ t.serial.LOG = [0x4F] :=
  ⟨_, _, rfl, rfl⟩
/-- First and last mapped addresses and their unmapped neighbours. -/
theorem witness_mapped :
    (∀ a ∈ [0x1000, 0x1FFF, 0x8000, 0x8FFF], mapSmall.Mapped a) ∧ ∀ a ∈ [0x0FFF, 0x2000, 0x7FFF, 0x9000], ¬ mapSmall.Mapped a := by decide
theorem witness_word_write :
    State.reset.cfg.Mapped (0x1FFC#32).toNat ∧ State.reset.cfg.Mapped (0x1FFC#32 + 1).toNat ∧
      State.reset.cfg.Mapped (0x1FFC#32 + 2).toNat ∧ State.reset.cfg.Mapped (0x1FFC#32 + 3).toNat := by decide
/-- The three cases of `load`, at the last address of each window and the first past RAM. -/
theorem witness_load :
    State.reset.cfg.InRAM 0x1FFF ∧ (¬ State.reset.cfg.InRAM 0x8FFF ∧ State.reset.cfg.InROM 0x8FFF) ∧ ¬ State.reset.cfg.Mapped 0x2000 := by
  decide
theorem witness_canonical : Memory.wf mapSmall [(0x1000, 1), (0x8000, 4)] ∧ ¬ Memory.wf mapSmall [(0x8000, 3)] := by decide
/-- Each of the four neighbours, in MAP_SMALL. -/
theorem witness_neighbours :
    ((0x9000#32).toNat = mapSmall.romEnd.toNat + 1 ∧ ¬ mapSmall.InRAM (0x9000#32).toNat) ∧
      ((0x0FFF#32).toNat + 1 = mapSmall.ramStart.toNat ∧ ¬ mapSmall.InROM (0x0FFF#32).toNat) ∧
      ((0x2000#32).toNat = mapSmall.ramEnd.toNat + 1 ∧ ¬ mapSmall.InROM (0x2000#32).toNat) ∧
      ((0x7FFF#32).toNat + 1 = mapSmall.romStart.toNat ∧ ¬ mapSmall.InRAM (0x7FFF#32).toNat) := by decide
/-- MAP_SMALL's regions lie outside both windows: the first and the last address of each, and a word at the end of one. -/
theorem witness_device_regions :
    mapSmall.DevicesUnmapped ∧
      (∀ a ∈ [0x80000, 0xFFFFF, 0x100000, 0x107FFF, 0x7FC000, 0x7FFFFF], mapSmall.InDeviceRegion a) ∧
      (∀ a ∈ [0x7FFFF, 0x108000, 0x7FBFFF, 0x800000], ¬ mapSmall.InDeviceRegion a) ∧
      ∀ k, k < Width.w32.bytes → mapSmall.InDeviceRegion (0x7FFFFC#32 + BitVec.ofNat 32 k).toNat := by
  refine ⟨fun a h hm => ?_, by decide, by decide, by decide⟩
  simp [mapSmall, Config.InDeviceRegion, Config.Mapped, Config.InRAM, Config.InROM] at h hm
  omega
/-- The last byte of ROM, one step. -/
theorem witness_nop_stream :
    let s : State := { State.reset with pc := 0x8FFF }
    s.cfg.Valid ∧ s.mem = [] ∧ s.cfg.InROM s.pc.toNat ∧ s.pc.toNat + 1 ≤ s.cfg.romEnd.toNat + 1 := by decide
theorem witness_zero_bytes :
    ∀ j, j < 2 → ({ State.reset with pc := 0x1FFF } : State).read8 (0x1FFF#32 + BitVec.ofNat 32 j) = 0 := by decide
theorem witness_reset_idempotent : ∃ t : State, t.cfg = State.reset.cfg ∧ t.mem = State.reset.mem ∧ t.pc ≠ State.reset.pc :=
  ⟨{ State.reset with pc := 1 }, rfl, rfl, by decide⟩
/-- The slot in untouched ROM (MAP_SMALL), and a map whose slot is unmapped. -/
theorem witness_unseeded_vector :
    (∀ k, k < 4 → mapSmall.InROM (mapSmall.resetVectorAddr + BitVec.ofNat 32 k).toNat ∧
        ¬ mapSmall.InRAM (mapSmall.resetVectorAddr + BitVec.ofNat 32 k).toNat) ∧
      ∀ k, k < 4 → ¬ ({ mapSmall with resetVectorAddr := 0x9000 } : Config).InROM (0x9000#32 + BitVec.ofNat 32 k).toNat := by decide
theorem witness_pending :
    State.reset.pending = [] ∧ PendingSorted [⟨2, 5, .timer⟩, ⟨3, 3, .timer⟩, ⟨1, 3, .timer⟩] ∧
      ∃ r rest, (State.reset.requestInterrupt ⟨2, 5, .timer⟩).pending = r :: rest := ⟨rfl, by decide, _, _, rfl⟩
/-- The three cases of a tick: disabled, one short of the compare value, and at it. -/
theorem witness_tick :
    State.reset.timer.EN.toNat % 2 = 0 ∧ timerOn.timer.EN.toNat % 2 = 1 ∧
      timerOn.timer.CNT.toNat + 999 < timerOn.timer.CMP.toNat ∧ timerOn.timer.CMP.toNat ≤ timerOn.timer.CNT.toNat + 1000 := by decide
theorem witness_timer_period :
    timerOn.timer.EN.toNat % 2 = 1 ∧ timerOn.timer.IEN.toNat % 2 = 1 ∧ timerOn.timer.CNT = 0 ∧ 1 ≤ timerOn.timer.CMP.toNat ∧
      999 < timerOn.timer.CMP.toNat := by decide
/-- The offsets and pins where the clauses meet: timer 9 and 10, GPIO 1, 2 and 3, pins 7 and 8, serial 0 and 1. -/
theorem witness_offsets :
    resetTimer.read8 10 = 0 ∧ resetTimer.write8 10 1 = resetTimer ∧ (resetTimer.write8 9 1).read8 9 = 1 ∧
      (resetGpio.write8 1 1).OUT = 1 ∧ resetGpio.write8 2 1 = resetGpio ∧ resetGpio.read8 3 = 0 ∧
      (resetGpio.setInputBit 7 1).IN = 0x80 ∧ resetGpio.setInputBit 8 1 = resetGpio ∧ resetGpio.getOutputBit 8 = false ∧
      (powerOnSerial.write8 1 1) = powerOnSerial := by decide

/-- Wide writes across the ends of the register maps: the timer's byte 10 and GPIO's IN are dropped, the bytes before them land. -/
theorem witness_wide_write :
    Width.w16 ≠ .w8 ∧ Width.w32 ≠ .w8 ∧
      (State.reset.periphWrite .timer .w32 9 0xAABBCC01).timer = { resetTimer with IEN := 1 } ∧
      (State.reset.periphWrite .gpio .w32 1 0xAABBCC01).gpio = { resetGpio with OUT := 1 } := by decide

end Sys2Proof.Tests
end

/-! Memory reads: the wider reads as numbers, and every byte after a memory reset (spec/20_memory.md R60, R61, R65). -/

namespace Sys2Proof.Machine.Memory
variable {c : Config}

/-- A RAM byte nobody wrote since power-on is zero (R33). -/
theorem unlisted_of_inRAM {a : Nat} (h : c.InRAM a) : Memory.unlisted c a = 0 := by
  rw [Memory.unlisted, if_pos h, ramFill]

/-- A byte after `mem.reset()`, at every address (R65). -/
theorem read8_resetRam (m : Memory) (a : Word) :
    (m.resetRam c).read8 c a = if c.InRAM a.toNat then 0 else m.read8 c a := by
  unfold Memory.read8
  by_cases hr : c.InRAM a.toNat
  · have hm : c.Mapped a.toNat := .inl hr
    rw [if_pos hm, if_pos hr, get_resetRam, if_pos hr, unlisted_of_inRAM hr]
  · rw [get_resetRam, if_neg hr, if_neg hr]

end Sys2Proof.Machine.Memory

namespace Sys2Proof.Machine.State

theorem read16_toNat (s : State) (a : Word) :
    (s.read16 a).toNat = (s.read8 a).toNat + 256 * (s.read8 (a + 1)).toNat :=
  le16_toNat _ _

theorem read32_toNat (s : State) (a : Word) :
    (s.read32 a).toNat = (s.read8 a).toNat + 256 * (s.read8 (a + 1)).toNat + 65536 * (s.read8 (a + 2)).toNat +
      16777216 * (s.read8 (a + 3)).toNat :=
  le32_toNat _ _ _ _

@[simp] theorem read8_memReset (s : State) (a : Word) :
    s.memReset.read8 a = if s.cfg.InRAM a.toNat then 0 else s.read8 a :=
  Memory.read8_resetRam s.mem a

end Sys2Proof.Machine.State

namespace Sys2Proof.Proofs
open Machine

/-- Settles O35: the reset drops exactly the listed RAM cells, and an unlisted RAM cell reads 0. -/
theorem memResetZeroesRamOnly : Obligations.MemResetZeroesRamOnly := by
  intro s a
  have hread := State.read8_memReset s a
  have hmem : s.memReset = { s with mem := s.mem.resetRam s.cfg } := rfl
  exact ⟨hread, ⟨_, hmem⟩, State.cpuReset_mem s⟩

/-- Settles O32, by the value of a little-endian composition of bytes. -/
theorem wideReadsAreLittleEndian : Obligations.WideReadsAreLittleEndian := by
  intro s a
  exact ⟨State.read16_toNat s a, State.read32_toNat s a⟩

end Sys2Proof.Proofs

/-! Encoding and decoding: an instruction is read back from its bytes, alone and in a stream (spec/30_encoding.md R91 to R99, R113). -/

namespace Sys2Proof.Proofs
open Machine

theorem length_encode (i : Instr) : (encode i).length = i.length := by
  cases i <;> rfl

theorem instr_length_pos (i : Instr) : 0 < i.length := by
  cases i <;> exact Nat.succ_pos _

/-- The four bytes of an immediate compose to it (R96). -/
theorem le32_byteOf_toNat (v : Word) :
    le32 (byteOf v.toNat 0) (byteOf v.toNat 1) (byteOf v.toNat 2) (byteOf v.toNat 3) = v := by
  rw [le32_byteOf, BitVec.ofNat_toNat, BitVec.setWidth_eq]

/-- The decoder gives back an instruction whose encoding stands in its first bytes, whatever follows (R91 to R97). -/
theorem decode_eq_instr {i : Instr} {b : Nat → Byte} (h : ∀ k, k < i.length → b k = (encode i).getD k 0) :
    decode b = .instr i := by
  cases i with
  | nop =>
    have h : ∀ k < 1, b k = (encode .nop).getD k 0 := h
    simp [decode, encode, h]
  | movImm d v =>
    have h : ∀ k < 7, b k = (encode (.movImm d v)).getD k 0 := h
    simp [decode, encode, encodeImm, h, hiNibble_nibbles, loNibble_nibbles, le32_byteOf_toNat]
  | movReg rs d =>
    have h : ∀ k < 2, b k = (encode (.movReg rs d)).getD k 0 := h
    simp [decode, encode, h, hiNibble_nibbles, loNibble_nibbles]
  | addImm d v =>
    have h : ∀ k < 6, b k = (encode (.addImm d v)).getD k 0 := h
    simp [decode, encode, encodeImm, h, hiNibble_nibbles, loNibble_nibbles, le32_byteOf_toNat]

theorem decodeList_encode_append (i : Instr) (bs : List Byte) : decodeList (encode i ++ bs) = .instr i :=
  decode_eq_instr fun k hk => List.getD_append _ _ _ k (by rwa [length_encode])

/-- A unit is read off a stream that is not empty, and the rest is decoded behind it (R113). -/
theorem decodeUnits_succ {bs : List Byte} (h : bs ≠ []) (fuel : Nat) :
    decodeUnits (fuel + 1) bs = decodeList bs :: decodeUnits fuel (bs.drop (decodeList bs).length) := by
  cases bs with
  | nil => exact absurd rfl h
  | cons b bs => rfl

theorem decodeUnits_encode_append (i : Instr) (bs : List Byte) (fuel : Nat) :
    decodeUnits (fuel + 1) (encode i ++ bs) = .instr i :: decodeUnits fuel bs := by
  have hne : encode i ++ bs ≠ [] := by cases i <;> exact List.cons_ne_nil _ _
  rw [decodeUnits_succ hne, decodeList_encode_append, Decoded.length, ← length_encode, List.drop_left]

/-- Any fuel from the number of bytes on decodes a stream of encodings whole. -/
theorem decodeUnits_flatMap_encode (is : List Instr) (fuel : Nat) (h : (is.flatMap encode).length ≤ fuel) :
    decodeUnits fuel (is.flatMap encode) = is.map .instr := by
  induction is generalizing fuel with
  | nil => cases fuel <;> rfl
  | cons i is ih =>
    rw [List.flatMap_cons, List.length_append, length_encode] at h
    have hpos := instr_length_pos i
    obtain ⟨fuel, rfl⟩ : ∃ n, fuel = n + 1 := ⟨fuel - 1, by omega⟩
    rw [List.flatMap_cons, decodeUnits_encode_append, ih fuel (by omega), List.map_cons]

theorem decodeStream_flatMap_encode (is : List Instr) : decodeStream (is.flatMap encode) = is.map .instr :=
  decodeUnits_flatMap_encode is _ le_rfl

/-- The instruction a line spells, if it spells one. -/
def lineInstr (l : List Char) : Option Instr :=
  match assembleLine l with
  | .instr i => some i
  | .skip => none
  | .error _ => none

theorem sourceInstrs_eq_filterMap (source : List Char) :
    sourceInstrs source = (splitAtChar '\n' source).filterMap lineInstr := rfl

/-- Wherever the numbering starts, the code is the encodings of the lines' instructions, in order (R110, R111). -/
theorem assembleLines_code (n : Nat) (ls : List (List Char)) :
    (assembleLines n ls).code = (ls.filterMap lineInstr).flatMap encode := by
  induction ls generalizing n with
  | nil => rfl
  | cons l ls ih =>
    cases h : assembleLine l with
    | skip => simp [assembleLines, lineInstr, h, ih]
    | instr i => simp [assembleLines, lineInstr, h, ih]
    | error r => simp [assembleLines, lineInstr, h, ih]

theorem assemble_code (source : List Char) : (assemble source).code = (sourceInstrs source).flatMap encode :=
  assembleLines_code 1 _

/-- Settles O19: the produced bytes are the encodings of the source's instructions, and the decoder reads encodings back one by one. -/
theorem assemblerOutputDecodesBack : Obligations.AssemblerOutputDecodesBack := by
  intro source
  rw [assemble_code, decodeStream_flatMap_encode]

theorem and_fullMask (x : Byte) : x &&& 0xFF = x := BitVec.and_allOnes

/-- A row that matches has the byte at pc as its first pattern byte: every row fixes that byte whole (R97, R102). -/
theorem pattern_head_of_hits {b : Nat → Byte} {r : OpcodeRow} (hr : r ∈ opcodeRows) (h : r.hits b = true) :
    r.pattern.head? = some (b 0) := by
  simp only [opcodeRows, List.mem_cons, List.not_mem_nil, or_false] at hr
  obtain rfl | rfl | rfl | rfl := hr <;>
    simp only [OpcodeRow.hits, matchBytes, and_fullMask, Bool.and_eq_true, beq_iff_eq] at h <;>
    simp [h]

/-- No two rows of the table begin with the same pattern byte (R99). -/
theorem eq_of_pattern_head_eq :
    ∀ r₁ ∈ opcodeRows, ∀ r₂ ∈ opcodeRows, r₁.pattern.head? = r₂.pattern.head? → r₁ = r₂ := by
  decide

/-- Settles O16: two rows that match the same bytes begin with the same byte. -/
theorem patternsAreMutuallyExclusive : Obligations.PatternsAreMutuallyExclusive := by
  intro b r₁ r₂ hm₁ hm₂ h₁ h₂
  have hhead : r₁.pattern.head? = r₂.pattern.head? := by
    rw [pattern_head_of_hits hm₁ h₁, pattern_head_of_hits hm₂ h₂]
  exact eq_of_pattern_head_eq r₁ hm₁ r₂ hm₂ hhead

end Sys2Proof.Proofs

/-! One step and its flags: totality, the advance of pc, the cycle cost, Z and S (spec/40_execution_cycle.md R133 to R139). -/

namespace Sys2Proof.Proofs
open Machine

/-- Settles O8: an instruction answers a next state, and so does the report of an unrecognized byte. -/
theorem stepAlwaysAnswersANextState : Obligations.StepAlwaysAnswersANextState := by
  intro s
  cases hd : s.fetchDecode with
  | instr i => exact ⟨_, (step_instr hd).trans (exec_eq i s)⟩
  | unrecognized b => exact ⟨_, step_unrecognized hd⟩

theorem step_pc {s t : State} (h : step s = .next t) : t.pc = s.pc + BitVec.ofNat 32 s.fetchDecode.length := by
  obtain ⟨i, d, v, hd, -, rfl⟩ | ⟨hd, rfl⟩ | ⟨b, hd, rfl⟩ := step_cases h
  · rw [hd, State.advancePc_pc, State.writeResult_pc, Decoded.length]
  · rw [hd, State.advancePc_pc, Decoded.length, Instr.length]
  · rw [hd, State.takeUnrecognized_pc]; rfl

theorem instr_length_le_maxLength (i : Instr) : i.length ≤ maxLength := by
  cases i <;> exact Nat.le_of_ble_eq_true rfl

theorem decoded_length_pos (u : Decoded) : 0 < u.length := by
  cases u with
  | instr i => exact instr_length_pos i
  | unrecognized b => exact Nat.one_pos

theorem decoded_length_le_maxLength (u : Decoded) : u.length ≤ maxLength := by
  cases u with
  | instr i => exact instr_length_le_maxLength i
  | unrecognized b => exact Nat.le_of_ble_eq_true rfl

/-- A unit is shorter than the address space, so passing it moves an address. -/
theorem add_decoded_length_ne (a : Word) (u : Decoded) : a + BitVec.ofNat 32 u.length ≠ a := by
  have hpos := decoded_length_pos u
  have hle : u.length ≤ 7 := decoded_length_le_maxLength u
  bv_omega

/-- Settles O9: pc moves past the decoded unit, which is neither empty nor as long as the address space. -/
theorem stepAdvancesPcByTheLength : Obligations.StepAdvancesPcByTheLength := by
  intro s t h
  rw [step_pc h]
  exact ⟨rfl, add_decoded_length_ne s.pc s.fetchDecode⟩

theorem stepCycles_instr {s : State} {i : Instr} (h : s.fetchDecode = .instr i) : s.stepCycles = i.cycles := by
  rw [State.stepCycles, h, Decoded.cycles]

theorem stepCycles_unrecognized {s : State} {b : Byte} (h : s.fetchDecode = .unrecognized b) : s.stepCycles = 1 := by
  rw [State.stepCycles, h, Decoded.cycles]

/-- Settles O10: the four costs are the table's, and a step's cost is that of the unit decoded at pc. -/
theorem cycleCostsFollowTheDecodedUnit : Obligations.CycleCostsFollowTheDecodedUnit :=
  ⟨rfl, fun _ _ => rfl, fun _ _ => rfl, fun _ _ => rfl, fun _ _ => stepCycles_instr, fun _ _ => stepCycles_unrecognized⟩

theorem zeroFlag_eq_decide (v : Word) : zeroFlag v = decide (v.toNat = 0) := by
  rw [zeroFlag, Bool.eq_iff_iff, beq_iff_eq, decide_eq_true_iff]
  exact BitVec.toNat_inj.symm

/-- Bit 31 is the weight of the upper half of the 32-bit range. -/
theorem signFlag_eq_decide (v : Word) : signFlag v = decide (2 ^ 31 ≤ v.toNat) :=
  v.msb_eq_getLsbD_last.symm.trans v.msb_eq_decide

theorem not_zeroFlag_and_signFlag (v : Word) : ¬ (zeroFlag v = true ∧ signFlag v = true) := by
  rw [zeroFlag_eq_decide, signFlag_eq_decide, decide_eq_true_iff, decide_eq_true_iff]
  omega

/-- A register reads back the result written to it (R20, R139). -/
theorem readReg_writeResult_same (s : State) (d : RegIdx) (v : Word) : (s.writeResult d v).readReg d = v := by
  have hregs : (s.writeResult d v).regs = (s.writeReg d v).regs := rfl
  rw [State.readReg_congr hregs, readReg_writeReg, if_pos rfl]

/-- Settles O24: Z and S are two disjoint ranges of the written value, which the register then holds. -/
theorem flagsComeFromTheResult : Obligations.FlagsComeFromTheResult := by
  intro s d v
  have hread := readReg_writeResult_same s d v
  refine ⟨?_, not_zeroFlag_and_signFlag v, hread, ?_⟩
  · rw [State.setZS_psw, zeroFlag_eq_decide, signFlag_eq_decide]
  · rw [hread, State.writeResult_psw, State.setZS_psw]

end Sys2Proof.Proofs

/-! NOP (spec/41_nop.md R150). -/

namespace Sys2Proof.Proofs
open Machine

/-- NOP has no result to write, so only the step frame's advance by its length is left (R130, R150). -/
theorem exec_nop (s : State) : exec .nop s = .next (s.advancePc 1) := exec_eq .nop s

theorem advancePc_one (s : State) : s.advancePc 1 = { s with pc := s.pc + 1 } := rfl

/-- Settles O1: the byte, length and cost are the table's, and NOP is the advance of pc by 1 alone. -/
theorem nopOnlyAdvancesPc : Obligations.NopOnlyAdvancesPc := by
  refine ⟨rfl, rfl, rfl, fun s => ?_⟩
  rw [exec_nop, advancePc_one]

end Sys2Proof.Proofs

/-! The data instructions as one record update, and the two MOV.L (spec/40_execution_cycle.md R130, R139; spec/42_mov.md R155, R156). -/

namespace Sys2Proof.Proofs
open Machine

theorem nibbles_eq_ofNat (h l : BitVec 4) : nibbles h l = BitVec.ofNat 8 (16 * h.toNat + l.toNat) := by
  revert h l; decide

/-- An instruction with a result changes its destination, Z and S by the result as a number, pc by its length, and nothing else
(R130, R139). -/
theorem exec_of_writtenResult {i : Instr} {s : State} {d : RegIdx} {v : Word} (h : writtenResult i s = some (d, v)) :
    exec i s = .next { s with
      regs := s.regs.set d.toNat v
      psw := { s.psw with Z := decide (v.toNat = 0), S := decide (2 ^ 31 ≤ v.toNat) }
      pc := s.pc + BitVec.ofNat 32 i.length } := by
  rw [exec_eq, h, ← zeroFlag_eq_decide, ← signFlag_eq_decide]
  rfl

/-- The destination byte of MOV.L #imm32 has its high nibble fixed to 0 (R92). -/
theorem encode_movImm (d : RegIdx) (imm : Word) :
    encode (.movImm d imm) = [0xFB, 0x12, BitVec.ofNat 8 d.toNat] ++ encodeImm imm := by
  have hd : nibbles 0 d = BitVec.ofNat 8 d.toNat := by
    simp [nibbles_eq_ofNat]
  rw [encode, hd]

/-- Settles O2: the result is the immediate, whatever the state. -/
theorem movImmediateWritesRegisterAndFlags : Obligations.MovImmediateWritesRegisterAndFlags := by
  intro d imm
  refine ⟨encode_movImm d imm, rfl, rfl, fun s => ?_⟩
  have hresult : writtenResult (.movImm d imm) s = some (d, imm) := rfl
  exact exec_of_writtenResult hresult

theorem encode_movReg (rs d : RegIdx) :
    encode (.movReg rs d) = [0xCF, BitVec.ofNat 8 (16 * rs.toNat + d.toNat)] := by
  rw [encode, nibbles_eq_ofNat]

/-- Settles O3: the result is the source register's value before the write, so the destination may be the source. -/
theorem movRegisterCopiesAndSetsFlags : Obligations.MovRegisterCopiesAndSetsFlags := by
  intro rs d
  refine ⟨encode_movReg rs d, rfl, rfl, fun s => ?_⟩
  have hresult : writtenResult (.movReg rs d) s = some (d, s.regs[rs.toNat]) := rfl
  exact exec_of_writtenResult hresult

end Sys2Proof.Proofs

/-! ADD.L #imm32,Rd as the sum of two numbers modulo 2^32 (spec/43_add.md R165). -/

namespace Sys2Proof.Proofs
open Machine

/-- The destination byte of ADD.L has its high nibble fixed to 2 (R94). -/
theorem encode_addImm (d : RegIdx) (imm : Word) :
    encode (.addImm d imm) = [0x72, BitVec.ofNat 8 (32 + d.toNat)] ++ encodeImm imm := by
  have hd : nibbles 2 d = BitVec.ofNat 8 (32 + d.toNat) := nibbles_eq_ofNat 2 d
  rw [encode, hd]

/-- ADD.L's result is the sum of the two operands as numbers, wrapped to a word (R141, R165). -/
theorem writtenResult_addImm (d : RegIdx) (imm : Word) (s : State) :
    writtenResult (.addImm d imm) s = some (d, BitVec.ofNat 32 (s.regs[d.toNat].toNat + imm.toNat)) := by
  rw [← BitVec.add_def]
  rfl

/-- Settles O4: the result is the wrapped sum, whose value as a number is the sum modulo 2^32. -/
theorem addImmediateWrapsAndSetsFlags : Obligations.AddImmediateWrapsAndSetsFlags := by
  intro d imm
  refine ⟨encode_addImm d imm, rfl, rfl, fun s => ?_⟩
  have hresult := writtenResult_addImm d imm s
  rw [exec_of_writtenResult hresult, BitVec.toNat_ofNat]
  rfl

end Sys2Proof.Proofs

/-! The interrupt queue's insertion and removal, and the resets of timer and GPIO (spec/60_exceptions.md R202 to R205, R230, R239). -/

namespace Sys2Proof.Proofs
open Machine

/-- In an ordered queue, a request stands between the requests of at least its priority and those of lower priority (R202). -/
theorem insertRequest_split {q : List InterruptRequest} (r : InterruptRequest) (h : PendingSorted q) :
    ∃ front back, q = front ++ back ∧ (∀ x ∈ front, r.priority ≤ x.priority) ∧ (∀ x ∈ back, x.priority < r.priority) ∧
      insertRequest r q = front ++ r :: back := by
  obtain ⟨hfront, hback⟩ := countP_split (r := r) h
  exact ⟨_, _, (List.take_append_drop _ q).symm, hfront, hback, List.append_assoc _ [r] _⟩

/-- A request put before requests of lower priority only is the last of its own priority class; the other classes do not change. -/
theorem filter_priority_append_cons {r : InterruptRequest} {back : List InterruptRequest}
    (hback : ∀ x ∈ back, x.priority < r.priority) (front : List InterruptRequest) (p : Nat) :
    (front ++ r :: back).filter (fun x => x.priority == p) =
      (front ++ back).filter (fun x => x.priority == p) ++ (if r.priority = p then [r] else []) := by
  by_cases hp : r.priority = p
  · have hnone : back.filter (fun x => x.priority == p) = [] :=
      List.filter_eq_nil_iff.2 fun x hx => by simpa using ((hback x hx).trans_eq hp).ne
    simp [hp, hnone]
  · simp [hp]

/-- Settles O49: around the request the queue splits by priority, so the requests behind it are not of its class. -/
theorem requestIsInsertedInStableOrder : Obligations.RequestIsInsertedInStableOrder := by
  intro s r h
  obtain ⟨front, back, hq, hfront, hback, hinsert⟩ := insertRequest_split r h
  refine ⟨⟨front, back, hq, hfront, hback, hinsert⟩, insertRequest_sorted h, fun p => ?_, _, rfl⟩
  rw [State.requestInterrupt_pending, hinsert, hq]
  exact filter_priority_append_cons hback front p

theorem popNext_of_pending_nil {s : State} (h : s.pending = []) : s.popNext = (none, s) := by
  simpa [h] using popNext_cases s

theorem popNext_of_pending_cons {s : State} {r : InterruptRequest} {rest : List InterruptRequest} (h : s.pending = r :: rest) :
    s.popNext = (some r, { s with pending := rest }) := by
  simpa [h] using popNext_cases s

theorem hasPending_iff (s : State) : s.hasPending = true ↔ s.pending ≠ [] := by
  simp [State.hasPending]

/-- Settles O51: the queue is empty or has a front, and in order the front is of at least every later priority. -/
theorem popNextTakesTheFront : Obligations.PopNextTakesTheFront := by
  refine fun s => ⟨fun hnil => ?_, fun r rest hcons => ?_⟩
  · exact ⟨popNext_of_pending_nil hnil, Bool.eq_false_iff.2 fun hp => (hasPending_iff s).1 hp hnil⟩
  · refine ⟨popNext_of_pending_cons hcons, (hasPending_iff s).2 (by simp [hcons]), fun hsorted => ?_⟩
    rw [hcons] at hsorted
    exact fun q hq => List.rel_of_pairwise_cons hsorted hq

/-- Settles O56: each reset is its own record update, and GPIO's tick is the identity. -/
theorem timerAndGpioReset : Obligations.TimerAndGpioReset :=
  fun _ => ⟨rfl, rfl, fun _ => rfl⟩

end Sys2Proof.Proofs

/-! The decoder read backwards: which bytes decode to an instruction, which to the unrecognized byte, and the pattern table
(spec/30_encoding.md R91 to R100). -/

namespace Sys2Proof.Proofs
open Machine

/-- Settles O13: the decoder reads an instruction off the bytes of its encoding. -/
theorem decodeOfEncodeIsTheInstruction : Obligations.DecodeOfEncodeIsTheInstruction :=
  fun _ _ _ hbytes => decode_eq_instr hbytes

/-- The fixed bits of the four formats, N, MI, RR and AI (R91 to R94); fixed nibbles are tested (R98, decision D7). -/
def FixedBits (b : Nat → Byte) : Instr → Prop
  | .nop => b 0 = 0x03
  | .movImm _ _ => b 0 = 0xFB ∧ b 1 = 0x12 ∧ hiNibble (b 2) = 0
  | .movReg _ _ => b 0 = 0xCF
  | .addImm _ _ => b 0 = 0x72 ∧ hiNibble (b 1) = 2

/-- The instruction whose operands stand in the bytes, in the format of a given one. -/
def readOperands (b : Nat → Byte) : Instr → Instr
  | .nop => .nop
  | .movImm _ _ => .movImm (loNibble (b 2)) (le32 (b 3) (b 4) (b 5) (b 6))
  | .movReg _ _ => .movReg (hiNibble (b 1)) (loNibble (b 1))
  | .addImm _ _ => .addImm (loNibble (b 1)) (le32 (b 2) (b 3) (b 4) (b 5))

/-- Decoding, inverted: the fixed bits of a format stand there and the operands are read, or no format's fixed bits do. -/
theorem decode_cases (b : Nat → Byte) :
    (∃ i, FixedBits b i ∧ i = readOperands b i ∧ decode b = .instr i) ∨
      ((∀ i, ¬ FixedBits b i) ∧ decode b = .unrecognized (b 0)) := by
  unfold decode
  split
  · next h => exact .inl ⟨.nop, h, rfl, rfl⟩
  · next hnop =>
    split
    · next h => exact .inl ⟨.movImm _ _, h, rfl, rfl⟩
    · next hmi =>
      split
      · next h => exact .inl ⟨.movReg _ _, h, rfl, rfl⟩
      · next hrr =>
        split
        · next h => exact .inl ⟨.addImm _ _, h, rfl, rfl⟩
        · next hai =>
          refine .inr ⟨fun i => ?_, rfl⟩
          cases i with
          | nop => exact hnop
          | movImm d v => exact hmi
          | movReg rs d => exact hrr
          | addImm d v => exact hai

theorem fixedBits_of_decode {b : Nat → Byte} {i : Instr} (h : decode b = .instr i) :
    FixedBits b i ∧ i = readOperands b i := by
  obtain ⟨j, hfixed, hops, hj⟩ | ⟨-, hu⟩ := decode_cases b
  · obtain rfl : j = i := Decoded.instr.inj (hj.symm.trans h)
    exact ⟨hfixed, hops⟩
  · rw [hu] at h
    cases h

/-- A byte is unrecognized exactly when the fixed bits of no format stand at pc, and the unit is that byte (R100). -/
theorem decode_eq_unrecognized_iff (b : Nat → Byte) (x : Byte) :
    decode b = .unrecognized x ↔ x = b 0 ∧ ∀ i, ¬ FixedBits b i := by
  obtain ⟨i, hfixed, -, hi⟩ | ⟨hnone, hu⟩ := decode_cases b
  · rw [hi]
    exact ⟨fun h => Decoded.noConfusion h, fun h => absurd hfixed (h.2 i)⟩
  · rw [hu, Decoded.unrecognized.injEq]
    exact ⟨fun h => ⟨h.symm, hnone⟩, fun h => h.1.symm⟩

theorem nibbles_loNibble_of_hiNibble {b : Byte} {h : BitVec 4} (hb : hiNibble b = h) : nibbles h (loNibble b) = b := by
  rw [← hb, nibbles_eta]

theorem encodeImm_le32 (b0 b1 b2 b3 : Byte) : encodeImm (le32 b0 b1 b2 b3) = [b0, b1, b2, b3] := by
  simp only [encodeImm, byteOf_le32]

/-- Fixed bits and operands together are all the bits of the encoding. -/
theorem encode_readOperands {b : Nat → Byte} {i : Instr} (h : FixedBits b i) :
    encode (readOperands b i) = (List.range i.length).map b := by
  cases i with
  | nop =>
    have h0 : b 0 = 0x03 := h
    simp [readOperands, encode, Instr.length, List.range_succ, h0]
  | movImm d v =>
    obtain ⟨h0, h1, h2⟩ := h
    rw [readOperands, encode, nibbles_loNibble_of_hiNibble h2, encodeImm_le32]
    simp [Instr.length, List.range_succ, h0, h1]
  | movReg rs d =>
    have h0 : b 0 = 0xCF := h
    simp [readOperands, encode, nibbles_eta, Instr.length, List.range_succ, h0]
  | addImm d v =>
    obtain ⟨h0, h1⟩ := h
    rw [readOperands, encode, nibbles_loNibble_of_hiNibble h1, encodeImm_le32]
    simp [Instr.length, List.range_succ, h0]

/-- Settles O14: the encoding is the list of the bytes that were decoded. -/
theorem encodingIsUnique : Obligations.EncodingIsUnique := by
  intro b i h
  obtain ⟨hfixed, hops⟩ := fixedBits_of_decode h
  have hbytes : encode i = (List.range i.length).map b := by
    conv_lhs => rw [hops]
    exact encode_readOperands hfixed
  refine ⟨length_encode i, fun k hk => ?_⟩
  simp [hbytes, hk]

/-- The high nibble as a number (R11). -/
theorem hiNibble_eq_iff (b : Byte) (n : BitVec 4) : hiNibble b = n ↔ b.toNat / 16 = n.toNat := by
  revert b n; decide

/-- Absence of all four formats, as numbers (R100). -/
theorem forall_not_fixedBits_iff (b : Nat → Byte) :
    (∀ i, ¬ FixedBits b i) ↔
      (b 0).toNat ≠ 0x03 ∧ ¬ ((b 0).toNat = 0xFB ∧ (b 1).toNat = 0x12 ∧ (b 2).toNat / 16 = 0) ∧ (b 0).toNat ≠ 0xCF ∧
        ¬ ((b 0).toNat = 0x72 ∧ (b 1).toNat / 16 = 2) := by
  have hbyte (k : Nat) (n : Byte) : b k = n ↔ (b k).toNat = n.toNat := BitVec.toNat_inj.symm
  constructor
  · intro h
    refine ⟨?_, ?_, ?_, ?_⟩
    · simpa [FixedBits, hbyte] using h .nop
    · simpa [FixedBits, hbyte, hiNibble_eq_iff] using h (.movImm 0 0)
    · simpa [FixedBits, hbyte] using h (.movReg 0 0)
    · simpa [FixedBits, hbyte, hiNibble_eq_iff] using h (.addImm 0 0)
  · rintro ⟨hnop, hmi, hrr, hai⟩ i
    cases i with
    | nop => simpa [FixedBits, hbyte] using hnop
    | movImm d v => simpa [FixedBits, hbyte, hiNibble_eq_iff] using hmi
    | movReg rs d => simpa [FixedBits, hbyte] using hrr
    | addImm d v => simpa [FixedBits, hbyte, hiNibble_eq_iff] using hai

/-- Settles O15: no format stands at pc, sorted by the first byte, which no two formats share. -/
theorem unrecognizedSpaceExactly : Obligations.UnrecognizedSpaceExactly := by
  intro b x
  rw [decode_eq_unrecognized_iff, forall_not_fixedBits_iff]
  refine and_congr_right fun _ => ?_
  omega

/-- The row of the pattern table (R90) in which an instruction stands. -/
def rowOf : Instr → OpcodeRow
  | .nop => ⟨"NOP", [0x03], [0xFF], 1, 1⟩
  | .movImm _ _ => ⟨"MOV.L__imm32_Rd", [0xFB, 0x12, 0x00], [0xFF, 0xFF, 0xF0], 7, 2⟩
  | .movReg _ _ => ⟨"MOV.L_Rs_Rd", [0xCF], [0xFF], 2, 1⟩
  | .addImm _ _ => ⟨"ADD.L__imm32_Rd", [0x72, 0x20], [0xFF, 0xF0], 6, 2⟩

theorem mem_opcodeRows_iff (r : OpcodeRow) : r ∈ opcodeRows ↔ ∃ i, r = rowOf i := by
  constructor
  · intro h
    simp only [opcodeRows, List.mem_cons, List.not_mem_nil, or_false] at h
    obtain rfl | rfl | rfl | rfl := h
    · exact ⟨.nop, rfl⟩
    · exact ⟨.movImm 0 0, rfl⟩
    · exact ⟨.movReg 0 0, rfl⟩
    · exact ⟨.addImm 0 0, rfl⟩
  · rintro ⟨i, rfl⟩
    cases i <;> simp [rowOf, opcodeRows]

theorem rowOf_agrees (i : Instr) :
    i.mnemonic = (rowOf i).mnemonic ∧ i.length = (rowOf i).length ∧ i.cycles = (rowOf i).cycles := by
  cases i <;> exact ⟨rfl, rfl, rfl⟩

/-- Masking the low nibble away leaves the high nibble to compare (R92, R94). -/
theorem and_hiMask_eq_iff (x : Byte) (n : BitVec 4) : x &&& 0xF0 = nibbles n 0 ↔ hiNibble x = n := by
  revert x n; decide

/-- The mask and pattern of a row are the fixed bits of its format. -/
theorem hits_rowOf_iff (b : Nat → Byte) (i : Instr) : (rowOf i).hits b = true ↔ FixedBits b i := by
  have hlow0 : b 2 &&& 0xF0 = 0x00 ↔ hiNibble (b 2) = 0 := and_hiMask_eq_iff (b 2) 0
  have hlow2 : b 1 &&& 0xF0 = 0x20 ↔ hiNibble (b 1) = 2 := and_hiMask_eq_iff (b 1) 2
  cases i <;>
    simp only [rowOf, OpcodeRow.hits, matchBytes, FixedBits, Nat.zero_add, Nat.reduceAdd, and_fullMask, Bool.and_eq_true,
      beq_iff_eq, and_true, hlow0, hlow2]

/-- Settles O17: a row matches where its format's fixed bits stand, and no other row matches there (O16). -/
theorem decoderFollowsThePatternTable : Obligations.DecoderFollowsThePatternTable := by
  refine fun b => ⟨fun r hr => ?_, fun hnone => ?_⟩
  · have hhit : r.hits b = true := List.find?_some (p := fun r : OpcodeRow => r.hits b) hr
    have hmem := List.mem_of_find?_eq_some hr
    obtain ⟨i, hi⟩ := (mem_opcodeRows_iff r).1 hmem
    obtain ⟨j, hj, -, hdec⟩ | ⟨hno, -⟩ := decode_cases b
    · have hrow : rowOf j = r :=
        patternsAreMutuallyExclusive b _ _ ((mem_opcodeRows_iff _).2 ⟨j, rfl⟩) hmem ((hits_rowOf_iff b j).2 hj) hhit
      exact ⟨j, hdec, hrow ▸ rowOf_agrees j⟩
    · exact absurd ((hits_rowOf_iff b i).1 (hi ▸ hhit)) (hno i)
  · refine (decode_eq_unrecognized_iff b _).2 ⟨rfl, fun i hi => ?_⟩
    exact List.find?_eq_none.1 hnone (rowOf i) ((mem_opcodeRows_iff _).2 ⟨i, rfl⟩) ((hits_rowOf_iff b i).2 hi)

/-- Settles O18: the five words are closed inputs, which the decoder evaluates. -/
theorem sampleWordsDecode : Obligations.SampleWordsDecode := by
  unfold Obligations.SampleWordsDecode
  decide

end Sys2Proof.Proofs

/-! What steps leave unchanged: the frames of instruction and step, the invariants, and what a step does not depend on
(spec/40_execution_cycle.md R130, R135, R143, R144; spec/60_exceptions.md R192). -/

namespace Sys2Proof.Proofs
open Machine

/-- What any number of steps leaves of a state (R144), as one relation: everything but the registers, pc, Z, S and later reports. -/
structure StepsKeep (s t : State) : Prop where
  cfg : t.cfg = s.cfg
  usp : t.usp = s.usp
  isp : t.isp = s.isp
  acc : t.acc = s.acc
  mem : t.mem = s.mem
  pending : t.pending = s.pending
  timer : t.timer = s.timer
  gpio : t.gpio = s.gpio
  serial : t.serial = s.serial
  psw : ∃ z n, t.psw = { s.psw with Z := z, S := n }
  reports : s.reports <+: t.reports
  flags : s.FlagsConsistent → t.FlagsConsistent

theorem StepsKeep.refl (s : State) : StepsKeep s s :=
  ⟨rfl, rfl, rfl, rfl, rfl, rfl, rfl, rfl, rfl, ⟨_, _, rfl⟩, List.prefix_rfl, id⟩

theorem StepsKeep.trans {s t u : State} (h : StepsKeep s t) (h' : StepsKeep t u) : StepsKeep s u := by
  obtain ⟨z, n, hpsw⟩ := h.psw
  obtain ⟨z', n', hpsw'⟩ := h'.psw
  exact ⟨h'.cfg.trans h.cfg, h'.usp.trans h.usp, h'.isp.trans h.isp, h'.acc.trans h.acc, h'.mem.trans h.mem,
    h'.pending.trans h.pending, h'.timer.trans h.timer, h'.gpio.trans h.gpio, h'.serial.trans h.serial,
    ⟨z', n', by rw [hpsw', hpsw]⟩, h.reports.trans h'.reports, h'.flags ∘ h.flags⟩

/-- An instruction reports nothing (R144). -/
theorem reports_of_step_instr {s t : State} {i : Instr} (hd : s.fetchDecode = .instr i) (h : step s = .next t) :
    t.reports = s.reports := by
  obtain ⟨j, d, v, -, -, rfl⟩ | ⟨-, rfl⟩ | ⟨b, hu, -⟩ := step_cases h
  · simp
  · simp
  · rw [hd] at hu
    cases hu

theorem stepsKeep_of_step {s t : State} (h : step s = .next t) : StepsKeep s t := by
  obtain ⟨hcfg, husp, hisp, hacc, hmem, hpending, htimer, hgpio, hserial⟩ := step_frame h
  refine ⟨hcfg, husp, hisp, hacc, hmem, hpending, htimer, hgpio, hserial, ?_, ?_, fun hs => ?_⟩
  · obtain hpsw | ⟨v, hpsw⟩ := step_psw h
    · exact ⟨_, _, hpsw⟩
    · exact ⟨_, _, hpsw⟩
  · obtain ⟨i, d, v, -, -, rfl⟩ | ⟨-, rfl⟩ | ⟨b, -, rfl⟩ := step_cases h <;> simp
  · obtain hpsw | ⟨v, hpsw⟩ := step_psw h
    · rwa [State.FlagsConsistent, hpsw]
    · rw [State.FlagsConsistent, hpsw]
      exact not_zeroFlag_and_signFlag v

/-- A run of `k + 1` steps is one step and a run of `k`. -/
theorem exists_step_of_run_succ {s u : State} {k : Nat} (h : Sys2Proof.core.run (k + 1) s = .next u) :
    ∃ t, step s = .next t ∧ Sys2Proof.core.run k t = .next u := by
  obtain ⟨t, ht⟩ := stepAlwaysAnswersANextState s
  exact ⟨t, ht, (run_succ ht k).symm.trans h⟩

theorem stepsKeep_of_run {k : Nat} {s t : State} (h : Sys2Proof.core.run k s = .next t) : StepsKeep s t := by
  induction k generalizing s with
  | zero =>
    obtain rfl : s = t := Host.Outcome.next.inj h
    exact .refl s
  | succ k ih =>
    obtain ⟨u, hu, hrest⟩ := exists_step_of_run_succ h
    exact (stepsKeep_of_step hu).trans (ih hrest)

theorem StepsKeep.inv {s t : State} (h : StepsKeep s t) (hs : s.Inv) : t.Inv := by
  rw [State.Inv, h.cfg, h.mem, h.pending]
  exact hs

/-- The control state of a machine: all that only `cpu.reset()` writes (R27, R28, R30, R31). -/
structure SameControl (s t : State) : Prop where
  I : t.psw.I = s.psw.I
  U : t.psw.U = s.psw.U
  PM : t.psw.PM = s.psw.PM
  IPL : t.psw.IPL = s.psw.IPL
  O : t.psw.O = s.psw.O
  C : t.psw.C = s.psw.C
  usp : t.usp = s.usp
  isp : t.isp = s.isp
  acc : t.acc = s.acc

theorem SameControl.atReset {s t : State} (h : SameControl s t) (hcfg : t.cfg = s.cfg) (hs : s.ControlAtReset) :
    t.ControlAtReset := by
  rw [State.ControlAtReset, h.I, h.U, h.PM, h.IPL, h.O, h.C, h.usp, h.isp, h.acc, hcfg]
  exact hs

theorem StepsKeep.sameControl {s t : State} (h : StepsKeep s t) : SameControl s t := by
  obtain ⟨z, n, hpsw⟩ := h.psw
  constructor <;> simp only [hpsw, h.usp, h.isp, h.acc]

/-- Settles O25: a step leaves map, memory, queue and control state, and writes Z and S from one result. -/
theorem stepKeepsTheInvariants : Obligations.StepKeepsTheInvariants := by
  intro s t hinv hflags hcontrol h
  have hkeep := stepsKeep_of_step h
  exact ⟨hkeep.inv hinv, hkeep.flags hflags, hkeep.sameControl.atReset hkeep.cfg hcontrol⟩

/-- One instruction, inverted: it wrote a result to its destination, or it is NOP. -/
theorem exec_cases {i : Instr} {s t : State} (h : exec i s = .next t) :
    (∃ d v, i.dest = some d ∧ t = (s.writeResult d v).advancePc i.length) ∨ (i = .nop ∧ t = s.advancePc 1) := by
  rw [exec_eq] at h
  cases i with
  | nop => exact .inr ⟨rfl, (Host.Outcome.next.inj h).symm⟩
  | movImm d v => exact .inl ⟨d, _, rfl, (Host.Outcome.next.inj h).symm⟩
  | movReg rs d => exact .inl ⟨d, _, rfl, (Host.Outcome.next.inj h).symm⟩
  | addImm d v => exact .inl ⟨d, _, rfl, (Host.Outcome.next.inj h).symm⟩

/-- A data instruction's result goes to its destination and no other register (R20, R130). -/
theorem readReg_writeResult_advancePc_of_ne (s : State) {d r : RegIdx} (h : r ≠ d) (v : Word) (n : Nat) :
    ((s.writeResult d v).advancePc n).readReg r = s.readReg r := by
  have hregs : ((s.writeResult d v).advancePc n).regs = (s.writeReg d v).regs := rfl
  rw [State.readReg_congr hregs, readReg_writeReg, if_neg h.symm]

/-- Settles O5: a result changes its destination, Z and S, and the advance of pc changes pc. -/
theorem instructionsChangeOnlyTheirDestination : Obligations.InstructionsChangeOnlyTheirDestination := by
  intro i s t h
  obtain ⟨d, v, hdest, rfl⟩ | ⟨rfl, rfl⟩ := exec_cases h
  · have hreg (r : RegIdx) (hr : i.dest ≠ some r) : r ≠ d := fun e => hr (e ▸ hdest)
    have hnop : i ≠ .nop := by
      rintro rfl
      cases hdest
    refine ⟨fun r hr => readReg_writeResult_advancePc_of_ne s (hreg r hr) v _, ?_⟩
    exact ⟨rfl, rfl, rfl, rfl, rfl, rfl, fun e => absurd e hnop, rfl, rfl, rfl, rfl, rfl, rfl, rfl, rfl, rfl, fun _ => rfl⟩
  · exact ⟨fun _ _ => rfl, rfl, rfl, rfl, rfl, rfl, rfl, fun _ => rfl, rfl, rfl, rfl, rfl, rfl, rfl, rfl, rfl, rfl,
      fun _ => rfl⟩

/-- A step changes one register at most (R144). -/
theorem exists_dest_of_step {s t : State} (h : step s = .next t) : ∃ d : RegIdx, ∀ r, r ≠ d → t.readReg r = s.readReg r := by
  obtain ⟨i, d, v, -, -, rfl⟩ | ⟨-, rfl⟩ | ⟨b, -, rfl⟩ := step_cases h
  · exact ⟨d, fun r hr => readReg_writeResult_advancePc_of_ne s hr v _⟩
  · exact ⟨0, fun _ _ => rfl⟩
  · exact ⟨0, fun _ _ => rfl⟩

/-- Settles O11: the relation that all steps keep, with the register file and the two kinds of unit. -/
theorem stepFrame : Obligations.StepFrame := by
  intro s t h
  have hkeep := stepsKeep_of_step h
  have hctl := hkeep.sameControl
  have hunrecognized (b : Byte) (hd : s.fetchDecode = .unrecognized b) : t.regs = s.regs ∧ t.psw = s.psw := by
    obtain rfl : s.takeUnrecognized b = t := Host.Outcome.next.inj ((step_unrecognized hd).symm.trans h)
    exact ⟨rfl, rfl⟩
  exact ⟨hctl.usp, hctl.isp, hctl.acc, hctl.I, hctl.U, hctl.PM, hctl.IPL, hctl.O, hctl.C,
    State.read8_congr hkeep.cfg hkeep.mem, hkeep.pending, hkeep.timer, hkeep.gpio, hkeep.serial, hkeep.cfg,
    exists_dest_of_step h, fun ⟨_, hd⟩ => reports_of_step_instr hd h, hunrecognized⟩

theorem writtenResult_congr {s t : State} (h : t.regs = s.regs) (i : Instr) : writtenResult i t = writtenResult i s := by
  cases i <;> simp only [writtenResult, State.readReg_congr h]

/-- Settles O12: the unit, its result and the report are read off map, memory, registers and pc. -/
theorem stepIgnoresInterruptsAndModes : Obligations.StepIgnoresInterruptsAndModes := by
  intro s₁ s₂ t₁ t₂ hcfg hmem hregs hpc hZ hS h₁ h₂
  have hfetch : s₂.fetchDecode = s₁.fetchDecode := State.fetchDecode_congr hcfg.symm hmem.symm hpc.symm
  have hcost : s₁.stepCycles = s₂.stepCycles := by rw [State.stepCycles, State.stepCycles, hfetch]
  obtain ⟨i, d, v, hd, hv, rfl⟩ | ⟨hd, rfl⟩ | ⟨b, hd, rfl⟩ := step_cases h₁
  · rw [← writtenResult_congr hregs.symm] at hv
    rw [step_instr (hfetch.trans hd), exec_eq, hv] at h₂
    obtain rfl := Host.Outcome.next.inj h₂
    exact ⟨by simp [hregs], by simp [hpc], rfl, rfl, hcost, [], by simp⟩
  · rw [step_instr (hfetch.trans hd), exec_nop] at h₂
    obtain rfl := Host.Outcome.next.inj h₂
    exact ⟨hregs, by simp [hpc], hZ, hS, hcost, [], by simp⟩
  · rw [step_unrecognized (hfetch.trans hd)] at h₂
    obtain rfl := Host.Outcome.next.inj h₂
    exact ⟨hregs, by simp [hpc], hZ, hS, hcost, [.unrecognizedOpcode s₁.pc b], by simp [hpc]⟩

/-- Settles O6: the decoder's unit is the byte at pc, and taking it is the report and the skip. -/
theorem unrecognizedByteIsReportedAndSkipped : Obligations.UnrecognizedByteIsReportedAndSkipped := by
  intro s b h
  have hbyte := ((decode_eq_unrecognized_iff _ b).1 h).1
  rw [BitVec.add_zero] at hbyte
  exact ⟨hbyte, stepCycles_unrecognized h, step_unrecognized h⟩

theorem fetchDecode_of_holdsAtPc {s : State} {i : Instr} (h : s.HoldsAtPc i) : s.fetchDecode = .instr i :=
  decode_eq_instr h

/-- Settles O7: the decoder gives back the instruction whose encoding stands at pc, and a step runs what is decoded. -/
theorem stepRunsTheDecodedInstruction : Obligations.StepRunsTheDecodedInstruction := by
  intro s i _ h
  have hd := fetchDecode_of_holdsAtPc h
  exact ⟨hd, step_instr hd, stepCycles_instr hd⟩

end Sys2Proof.Proofs

/-! Runs of steps: every run answers, its cost, `cpu.run(n)` as the shortest run that spends its budget, and the streams of NOPs and of
zero bytes (spec/40_execution_cycle.md R134, R137; spec/10_state.md R33; spec/70_reset_and_hazards.md R277). -/

namespace Sys2Proof.Proofs
open Machine

theorem exists_run (k : Nat) (s : State) : ∃ t, Sys2Proof.core.run k s = .next t := by
  induction k generalizing s with
  | zero => exact ⟨s, rfl⟩
  | succ k ih =>
    obtain ⟨t, ht⟩ := stepAlwaysAnswersANextState s
    rw [run_succ ht]
    exact ih t

/-- The loop of `run(n)` has taken `r.steps` steps from `s`, none of which began at or past the budget (R137). -/
structure Reached (n : Nat) (s : State) (r : RunResult) : Prop where
  run : Sys2Proof.core.run r.steps s = .next r.state
  total : r.total = cyclesOver r.steps s
  shortest : ∀ j < r.steps, cyclesOver j s < n

/-- A step after a run of `k` is a run of `k + 1`. -/
theorem run_succ_last {k : Nat} {s t u : State} (h : Sys2Proof.core.run k s = .next t) (hu : step t = .next u) :
    Sys2Proof.core.run (k + 1) s = .next u := by
  induction k generalizing s with
  | zero =>
    obtain rfl : s = t := Host.Outcome.next.inj h
    rw [run_succ hu]
    rfl
  | succ k ih =>
    obtain ⟨w, hw, hrest⟩ := exists_step_of_run_succ h
    rw [run_succ hw, ih hrest]

theorem cyclesOver_succ_last {k : Nat} {s t : State} (h : Sys2Proof.core.run k s = .next t) :
    cyclesOver (k + 1) s = cyclesOver k s + t.stepCycles := by
  induction k generalizing s with
  | zero =>
    obtain rfl : s = t := Host.Outcome.next.inj h
    obtain ⟨u, hu⟩ := stepAlwaysAnswersANextState s
    rw [cyclesOver_succ hu, cyclesOver, cyclesOver, Nat.add_zero, Nat.zero_add]
  | succ k ih =>
    obtain ⟨w, hw, hrest⟩ := exists_step_of_run_succ h
    rw [cyclesOver_succ hw, ih hrest, cyclesOver_succ hw, Nat.add_assoc]

theorem Reached.start (n : Nat) (s : State) : Reached n s { state := s, total := 0, steps := 0 } :=
  ⟨rfl, rfl, fun _ hj => absurd hj (Nat.not_lt_zero _)⟩

theorem Reached.next {n : Nat} {s t : State} {r : RunResult} (h : Reached n s r) (hr : r.total < n)
    (ht : step r.state = .next t) :
    Reached n s { state := t, total := r.total + r.state.stepCycles, steps := r.steps + 1 } := by
  refine ⟨run_succ_last h.run ht, ?_, fun j hj => ?_⟩
  · rw [cyclesOver_succ_last h.run, h.total]
  · obtain hj | rfl := Nat.lt_succ_iff_lt_or_eq.1 hj
    · exact h.shortest j hj
    · exact h.total ▸ hr

theorem decoded_cycles_bounds (u : Decoded) : 1 ≤ u.cycles ∧ u.cycles ≤ 2 := by
  cases u with
  | instr i => cases i <;> simp [Decoded.cycles, Instr.cycles]
  | unrecognized b => simp [Decoded.cycles]

/-- Every step costs 1 or 2 cycles (R134). -/
theorem stepCycles_bounds (s : State) : 1 ≤ s.stepCycles ∧ s.stepCycles ≤ 2 := decoded_cycles_bounds s.fetchDecode

/-- With a step of fuel for every cycle left, the loop ends with its budget spent (R137). -/
theorem runLoop_reached {n fuel : Nat} {s : State} {r : RunResult} (h : Reached n s r) (hfuel : n ≤ r.total + fuel) :
    ∃ r', runLoop n fuel r = .next r' ∧ Reached n s r' ∧ n ≤ r'.total := by
  induction fuel generalizing r with
  | zero => exact ⟨r, rfl, h, hfuel⟩
  | succ fuel ih =>
    by_cases hr : r.total < n
    · obtain ⟨t, ht⟩ := stepAlwaysAnswersANextState r.state
      have hcost := (stepCycles_bounds r.state).1
      obtain ⟨r', hr', hreached⟩ := ih (h.next hr ht) (by simp only; omega)
      exact ⟨r', by simp only [runLoop, if_pos hr, ht, hr'], hreached⟩
    · exact ⟨r, by rw [runLoop, if_neg hr], h, Nat.le_of_not_lt hr⟩

theorem runCounted_reached (n : Nat) (s : State) :
    ∃ r, runCounted n s = .next r ∧ run n s = .next r.state ∧ Reached n s r ∧ n ≤ r.total := by
  obtain ⟨r, hr, hreached, htotal⟩ := runLoop_reached (Reached.start n s) (Nat.le_add_left n 0)
  have hcounted : runCounted n s = .next r := hr
  exact ⟨r, hcounted, by rw [run, hcounted], hreached, htotal⟩

/-- Settles O44: the loop stops at the first number of steps whose summed cost is at least the budget. -/
theorem runIsTheShortestRunReachingItsBudget : Obligations.RunIsTheShortestRunReachingItsBudget := by
  intro n s
  obtain ⟨r, hcounted, hrun, hreached, htotal⟩ := runCounted_reached n s
  exact ⟨r, hcounted, hrun, hreached.run, hreached.total, htotal, hreached.shortest⟩

/-- `k` steps cost between `k` and `2k` cycles (R134). -/
theorem cyclesOver_bounds (k : Nat) (s : State) : k ≤ cyclesOver k s ∧ cyclesOver k s ≤ 2 * k := by
  induction k generalizing s with
  | zero => exact ⟨Nat.le_refl 0, Nat.le_refl 0⟩
  | succ k ih =>
    obtain ⟨t, ht⟩ := stepAlwaysAnswersANextState s
    have hstep := stepCycles_bounds s
    have hrest := ih t
    rw [cyclesOver_succ ht]
    omega

/-- The last step of a run began below the budget, so the run took at most `n` steps and overshot by at most one cycle (R137). -/
theorem Reached.bounds {n : Nat} {s : State} {r : RunResult} (h : Reached n s r) : r.total ≤ n + 1 ∧ r.steps ≤ n := by
  rw [h.total]
  cases hsteps : r.steps with
  | zero => exact ⟨Nat.zero_le _, Nat.zero_le _⟩
  | succ k =>
    have hlast := h.shortest k (hsteps ▸ Nat.lt_succ_self k)
    have hk := (cyclesOver_bounds k s).1
    obtain ⟨u, hu⟩ := exists_run k s
    have hcost := (stepCycles_bounds u).2
    rw [cyclesOver_succ_last hu]
    omega

/-- Settles O43: the budget bounds the steps through their costs of 1 or 2 cycles, and a budget of 0 takes no step. -/
theorem runEndsWithinItsBounds : Obligations.RunEndsWithinItsBounds := by
  intro n s
  obtain ⟨r, hcounted, hrun, hreached, htotal⟩ := runCounted_reached n s
  obtain ⟨hover, hsteps⟩ := hreached.bounds
  have hcost := (cyclesOver_bounds r.steps s).2
  rw [← hreached.total] at hcost
  refine ⟨r, hcounted, hrun, htotal, hover, hsteps, by omega, ?_⟩
  rintro rfl
  obtain ⟨t, total, steps⟩ := r
  obtain rfl : steps = 0 := Nat.le_zero.1 hsteps
  obtain rfl : s = t := Host.Outcome.next.inj hreached.run
  exact ⟨rfl, hreached.total⟩

/-- The byte 03 is NOP whatever follows (R91). -/
theorem step_of_nop_byte {s : State} (h : s.read8 s.pc = 0x03) : step s = .next (s.advancePc 1) := by
  have hd : s.fetchDecode = .instr .nop := by
    refine decode_eq_instr fun k hk => ?_
    obtain rfl : k = 0 := Nat.lt_one_iff.1 hk
    simpa [encode] using h
  rw [step_instr hd, exec_nop]

/-- The byte 0 begins no format (R100). -/
theorem step_of_zero_byte {s : State} (h : s.read8 s.pc = 0) : step s = .next (s.takeUnrecognized 0) := by
  have hd : s.fetchDecode = .unrecognized 0 := by
    refine (decode_eq_unrecognized_iff _ 0).2 ⟨by simpa using h.symm, fun i hi => ?_⟩
    cases i <;> simp [FixedBits, h] at hi
  exact step_unrecognized hd

theorem add_one_add_ofNat (a : Word) (j : Nat) : a + 1 + BitVec.ofNat 32 j = a + BitVec.ofNat 32 (j + 1) := by
  rw [BitVec.add_assoc, BitVec.ofNat_add, BitVec.add_comm (BitVec.ofNat 32 j)]
  rfl

/-- Behind the first byte of a stream stands the rest of it, as long as map and memory are the same. -/
theorem stream_tail {s t : State} {x : Byte} {k : Nat} (hcfg : t.cfg = s.cfg) (hmem : t.mem = s.mem) (hpc : t.pc = s.pc + 1)
    (h : ∀ j, j < k + 1 → s.read8 (s.pc + BitVec.ofNat 32 j) = x) : ∀ j, j < k → t.read8 (t.pc + BitVec.ofNat 32 j) = x := by
  intro j hj
  rw [State.read8_congr hcfg hmem, hpc, add_one_add_ofNat]
  exact h (j + 1) (Nat.succ_lt_succ hj)

/-- A stream of bytes 03 is a stream of NOPs. -/
theorem run_of_nop_bytes {k : Nat} {s : State} (h : ∀ j, j < k → s.read8 (s.pc + BitVec.ofNat 32 j) = 0x03) :
    Sys2Proof.core.run k s = .next { s with pc := s.pc + BitVec.ofNat 32 k } := by
  induction k generalizing s with
  | zero => simp [Host.Core.run]
  | succ k ih =>
    have hstep := step_of_nop_byte (s := s) (by simpa using h 0 (Nat.succ_pos k))
    rw [run_succ hstep, ih (stream_tail (s := s) (t := s.advancePc 1) rfl rfl rfl h), ← add_one_add_ofNat]
    rfl

/-- The reports of `k` zero bytes from an address on (R191, decision D19). -/
def zeroReports (a : Word) (k : Nat) : List Report :=
  (List.range k).map fun j => .unrecognizedOpcode (a + BitVec.ofNat 32 j) 0

theorem zeroReports_succ (a : Word) (k : Nat) :
    zeroReports a (k + 1) = .unrecognizedOpcode a 0 :: zeroReports (a + 1) k := by
  simp only [zeroReports, List.range_succ_eq_map, List.map_cons, List.map_map, BitVec.add_zero, add_one_add_ofNat]
  rfl

/-- Each zero byte is skipped and reported by a step of its own. -/
theorem run_of_zero_bytes {k : Nat} {s : State} (h : ∀ j, j < k → s.read8 (s.pc + BitVec.ofNat 32 j) = 0) :
    Sys2Proof.core.run k s =
      .next { s with pc := s.pc + BitVec.ofNat 32 k, reports := s.reports ++ zeroReports s.pc k } := by
  induction k generalizing s with
  | zero => simp [Host.Core.run, zeroReports]
  | succ k ih =>
    have hstep := step_of_zero_byte (s := s) (by simpa using h 0 (Nat.succ_pos k))
    rw [run_succ hstep, ih (stream_tail (s := s) (t := s.takeUnrecognized 0) rfl rfl rfl h), zeroReports_succ, ← add_one_add_ofNat, List.append_cons]
    rfl

/-- Settles O42: the bytes from pc on are a stream of zero bytes. -/
theorem zeroBytesAreSkippedOneByOne : Obligations.ZeroBytesAreSkippedOneByOne :=
  fun _ _ h => run_of_zero_bytes h

/-- In an empty memory every address reads as nobody wrote it, unmapped ones as 0 (R33, R54). -/
theorem read8_nil (c : Config) (a : Word) : Memory.read8 c [] a = Memory.unlisted c a.toNat := by
  by_cases ha : c.Mapped a.toNat
  · rw [Memory.read8, if_pos ha]
    rfl
  · rw [Memory.read8, if_neg ha, Memory.unlisted, if_neg fun h => ha (.inl h), if_neg fun h => ha (.inr h)]

theorem unlisted_of_inROM {c : Config} {a : Nat} (hrom : c.InROM a) (hram : ¬ c.InRAM a) :
    Memory.unlisted c a = 0x03 := by
  rw [Memory.unlisted, if_neg hram, if_pos hrom, nopFill]

/-- Settles O41: the bytes the steps meet all lie in ROM, which the valid map keeps apart from RAM. -/
theorem untouchedRomIsANopStream : Obligations.UntouchedRomIsANopStream := by
  intro s k hvalid hmem hrom hk
  obtain ⟨-, -, hdisjoint, -⟩ := hvalid
  refine run_of_nop_bytes fun j hj => ?_
  have haddr : (s.pc + BitVec.ofNat 32 j).toNat = s.pc.toNat + j := by
    have := s.cfg.romEnd.isLt
    rw [BitVec.toNat_add, BitVec.toNat_ofNat]
    omega
  have hin : s.cfg.InROM (s.pc + BitVec.ofNat 32 j).toNat := by
    rw [haddr]
    omega
  have hout : ¬ s.cfg.InRAM (s.pc + BitVec.ofNat 32 j).toNat := fun hram => by omega
  rw [State.read8, hmem, read8_nil, unlisted_of_inROM hin hout]

end Sys2Proof.Proofs

/-! The host operations: every operation answers, what it can do to the state, and what it keeps (spec/00_scope.md R8, R9, R10;
spec/10_state.md R27 to R39). -/

namespace Sys2Proof.Proofs
open Machine

/-! Writes, said once for every width. -/

/-- A global write of any width changes memory alone. -/
theorem memWrite_eq (s : State) (w : Width) (a : Word) (v : Nat) :
    s.memWrite w a v = { s with mem := (s.memWrite w a v).mem } := by
  cases w <;> rfl

theorem memWrite_wf (s : State) (w : Width) (a : Word) (v : Nat) (h : s.mem.wf s.cfg) : (s.memWrite w a v).mem.wf s.cfg := by
  cases w with
  | w8 => exact Memory.write8_wf a v h
  | w16 => exact Memory.write16_wf a v h
  | w32 => exact Memory.write32_wf a v h

/-- Only registers of the peripherals differ, and the serial log has only grown (R218, R246). -/
def PeripheralsOnly (s t : State) : Prop :=
  ∃ g tm l, t = { s with gpio := g, timer := tm, serial := l } ∧ s.serial.LOG <+: l.LOG

theorem PeripheralsOnly.trans {s t u : State} : PeripheralsOnly s t → PeripheralsOnly t u → PeripheralsOnly s u := by
  rintro ⟨_, _, _, rfl, hlog⟩ ⟨g, tm, l, rfl, hlog'⟩
  exact ⟨g, tm, l, rfl, hlog.trans hlog'⟩

theorem log_prefix_serial_write8 (p : Serial) (o : Nat) (v : Byte) : p.LOG <+: (p.write8 o v).LOG := by
  unfold Serial.write8
  split
  · exact List.prefix_append _ _
  · exact List.prefix_rfl

theorem peripheralsOnly_periphWrite8 (s : State) (p : Peripheral) (o v : Nat) : PeripheralsOnly s (s.periphWrite8 p o v) := by
  cases p with
  | gpio => exact ⟨_, _, _, rfl, List.prefix_rfl⟩
  | timer => exact ⟨_, _, _, rfl, List.prefix_rfl⟩
  | serial => exact ⟨_, _, _, rfl, log_prefix_serial_write8 _ _ _⟩

theorem peripheralsOnly_periphWrite (s : State) (p : Peripheral) (w : Width) (o v : Nat) :
    PeripheralsOnly s (s.periphWrite p w o v) := by
  have h8 := fun t o v => peripheralsOnly_periphWrite8 t p o v
  cases w with
  | w8 => exact h8 _ _ _
  | w16 => exact (h8 _ _ _).trans (h8 _ _ _)
  | w32 => exact (((h8 _ _ _).trans (h8 _ _ _)).trans (h8 _ _ _)).trans (h8 _ _ _)

/-! What an operation can do. -/

/-- What an operation other than `cpu.reset()` does: CPU steps, a change of memory, one report, or a change of queue and peripherals. -/
inductive Effect (s : State) : State → Prop
  | steps {k : Nat} {t : State} (h : Sys2Proof.core.run k s = .next t) : Effect s t
  | memory {m : Memory} (hwf : s.mem.wf s.cfg → m.wf s.cfg) : Effect s { s with mem := m }
  | report (e : Report) : Effect s (s.report e)
  | units {q : List InterruptRequest} {tm : Timer} {g : Gpio} {l : Serial}
      (hq : PendingSorted s.pending → PendingSorted q) (hlog : s.serial.LOG <+: l.LOG) :
      Effect s { s with pending := q, timer := tm, gpio := g, serial := l }

theorem Effect.refl (s : State) : Effect s s := .units id List.prefix_rfl

theorem effect_load (s : State) (data : List Byte) (offset : Nat) : Effect s (s.load data offset) := by
  obtain ⟨m, hm, h⟩ | ⟨-, h⟩ := load_cases s data offset
  · exact h ▸ .memory fun hwf => Memory.load_wf hwf hm
  · exact h ▸ .report _

theorem effect_memWrite (s : State) (w : Width) (a : Word) (v : Nat) : Effect s (s.memWrite w a v) := by
  rw [memWrite_eq]
  exact .memory (memWrite_wf s w a v)

theorem effect_popNext (s : State) : Effect s s.popNext.2 := by
  obtain ⟨-, h⟩ | ⟨r, rest, hcons, h⟩ := popNext_cases s
  · exact h ▸ .refl s
  · rw [h]
    refine .units (fun hq => ?_) List.prefix_rfl
    rw [hcons] at hq
    exact hq.of_cons

theorem effect_periphReset (s : State) (p : Peripheral) : Effect s (s.periphReset p) := by
  cases p <;> exact .units id List.prefix_rfl

theorem effect_periphWrite (s : State) (p : Peripheral) (w : Width) (o v : Nat) : Effect s (s.periphWrite p w o v) := by
  obtain ⟨g, tm, l, h, hlog⟩ := peripheralsOnly_periphWrite s p w o v
  exact h ▸ .units id hlog

theorem effect_timerTick (s : State) (n : Nat) : Effect s (s.timerTick n) := by
  obtain h | ⟨v, h⟩ | h := timerTick_cases s n <;> rw [h]
  · exact .refl s
  · exact .units id List.prefix_rfl
  · exact .units insertRequest_sorted List.prefix_rfl

theorem effect_periphTick (s : State) (p : Peripheral) (n : Nat) : Effect s (s.periphTick p n) := by
  cases p with
  | gpio => exact .refl s
  | timer => exact effect_timerTick s n
  | serial => exact .refl s

/-- Every operation is served (R8, R10, R55, R136), and it is `cpu.reset()` or has one of the effects. -/
theorem serve_effect (op : HostOp) (s : State) :
    ∃ t r, serve op s = .next (t, r) ∧ (op = .cpuReset ∧ t = s.cpuReset ∨ Effect s t) := by
  cases op with
  | cpuReset => exact ⟨_, _, rfl, .inl ⟨rfl, rfl⟩⟩
  | cpuStep =>
    obtain ⟨t, ht⟩ := stepAlwaysAnswersANextState s
    exact ⟨t, _, by rw [serve, ht], .inr (.steps (run_succ ht 0))⟩
  | cpuRun n =>
    obtain ⟨r, -, hrun, hreached, -⟩ := runCounted_reached n s
    exact ⟨r.state, _, by rw [serve, hrun], .inr (.steps hreached.run)⟩
  | memWrite w a v => exact ⟨_, _, rfl, .inr (effect_memWrite s w a v)⟩
  | memReset => exact ⟨_, _, rfl, .inr (.memory Memory.resetRam_wf)⟩
  | load data offset => exact ⟨_, _, rfl, .inr (effect_load s data offset)⟩
  | requestInterrupt r => exact ⟨_, _, rfl, .inr (.units insertRequest_sorted List.prefix_rfl)⟩
  | popNext => exact ⟨_, _, rfl, .inr (effect_popNext s)⟩
  | periphReset p => exact ⟨_, _, rfl, .inr (effect_periphReset s p)⟩
  | periphWrite p w o v => exact ⟨_, _, rfl, .inr (effect_periphWrite s p w o v)⟩
  | periphTick p n => exact ⟨_, _, rfl, .inr (effect_periphTick s p n)⟩
  | setInputBit bit value => exact ⟨_, _, rfl, .inr (.units id List.prefix_rfl)⟩
  | snapshot | memRead | hasPending | getVectorAddress | resolveVector | periphRead | getOutputBit | readLog =>
    exact ⟨s, _, rfl, .inr (.refl s)⟩

theorem effect_of_serve {op : HostOp} {s t : State} {r : Response} (h : serve op s = .next (t, r)) :
    op = .cpuReset ∧ t = s.cpuReset ∨ Effect s t := by
  obtain ⟨t', r', h', heffect⟩ := serve_effect op s
  obtain ⟨rfl, -⟩ : t' = t ∧ r' = r := Prod.mk.inj (Host.Outcome.next.inj (h'.symm.trans h))
  exact heffect

/-! What every operation keeps. -/

/-- The parameters and the three invariants go from one state to the other. -/
structure InvariantsKept (s t : State) : Prop where
  cfg : t.cfg = s.cfg
  inv : s.Inv → t.Inv
  flags : s.FlagsConsistent → t.FlagsConsistent
  control : s.ControlAtReset → t.ControlAtReset

theorem Effect.sameControl {s t : State} (h : Effect s t) : SameControl s t := by
  cases h with
  | steps h => exact (stepsKeep_of_run h).sameControl
  | memory _ => constructor <;> rfl
  | report e => constructor <;> rfl
  | units _ _ => constructor <;> rfl

theorem Effect.invariantsKept {s t : State} (h : Effect s t) : InvariantsKept s t := by
  have hctl := h.sameControl
  cases h with
  | steps h =>
    have hkeep := stepsKeep_of_run h
    exact ⟨hkeep.cfg, hkeep.inv, hkeep.flags, hctl.atReset hkeep.cfg⟩
  | memory hwf => exact ⟨rfl, fun ⟨hcfg, hmem, hq⟩ => ⟨hcfg, hwf hmem, hq⟩, id, hctl.atReset rfl⟩
  | report e => exact ⟨rfl, id, id, hctl.atReset rfl⟩
  | units hq _ => exact ⟨rfl, fun ⟨hcfg, hmem, hpending⟩ => ⟨hcfg, hmem, hq hpending⟩, id, hctl.atReset rfl⟩

theorem invariantsKept_cpuReset (s : State) : InvariantsKept s s.cpuReset where
  cfg := rfl
  inv := id
  flags := fun _ ⟨hZ, _⟩ => Bool.noConfusion hZ
  control := fun _ => ⟨rfl, rfl, rfl, rfl, rfl, rfl, rfl, rfl, rfl⟩

/-- Settles O27: each effect keeps each invariant by its own premise, and `cpu.reset()` sets flags and control state. -/
theorem everyOperationKeepsTheInvariants : Obligations.EveryOperationKeepsTheInvariants := by
  intro op s t r h
  have hkept : InvariantsKept s t := by
    obtain ⟨-, rfl⟩ | heffect := effect_of_serve h
    · exact invariantsKept_cpuReset s
    · exact heffect.invariantsKept
  exact ⟨hkept.cfg, hkept.inv, hkept.flags, hkept.control⟩

/-- Settles O28: no effect of another operation reaches the control state. -/
theorem onlyCpuResetWritesControlState : Obligations.OnlyCpuResetWritesControlState := by
  intro op s t r hop h
  obtain ⟨hreset, -⟩ | heffect := effect_of_serve h
  · exact absurd hreset hop
  · have hctl := heffect.sameControl
    exact ⟨hctl.I, hctl.U, hctl.PM, hctl.IPL, hctl.O, hctl.C, hctl.usp, hctl.isp, hctl.acc⟩

/-- Settles O29, by induction on the schedule: every operation in it is served. -/
theorem everyScheduleCompletes : Obligations.EveryScheduleCompletes := by
  intro ops
  induction ops with
  | nil => exact fun s => ⟨s, rfl⟩
  | cons op ops ih =>
    intro s
    obtain ⟨t, r, h, -⟩ := serve_effect op s
    simp only [serveAll, h]
    exact ih t

theorem Effect.appendOnly {s t : State} (h : Effect s t) : s.serial.LOG <+: t.serial.LOG ∧ s.reports <+: t.reports := by
  cases h with
  | steps h =>
    have hkeep := stepsKeep_of_run h
    exact ⟨hkeep.serial ▸ List.prefix_rfl, hkeep.reports⟩
  | memory _ => exact ⟨List.prefix_rfl, List.prefix_rfl⟩
  | report e => exact ⟨List.prefix_rfl, List.prefix_append _ _⟩
  | units _ hlog => exact ⟨hlog, List.prefix_rfl⟩

/-- Settles O30: `cpu.reset()` touches neither list, and every effect appends or leaves them. -/
theorem logAndReportsAreAppendOnly : Obligations.LogAndReportsAreAppendOnly := by
  intro op s t r h
  obtain ⟨-, rfl⟩ | heffect := effect_of_serve h
  · exact ⟨List.prefix_rfl, List.prefix_rfl⟩
  · exact heffect.appendOnly

/-- Settles O26: the reset state is one state, in which each invariant is evaluated. -/
theorem resetMeetsTheInvariants : Obligations.ResetMeetsTheInvariants := by
  unfold Obligations.ResetMeetsTheInvariants
  decide

end Sys2Proof.Proofs

/-! Memory: what every access leaves at every address (spec/20_memory.md R52 to R73; spec/10_state.md R34). -/

namespace Sys2Proof.Proofs
open Machine

/-! Unmapped addresses. -/

theorem read8_of_unmapped {s : State} {a : Word} (h : ¬ s.cfg.Mapped a.toNat) : s.read8 a = 0 :=
  Memory.read8_unmapped s.mem h

theorem write8_of_unmapped {s : State} {a : Word} (h : ¬ s.cfg.Mapped a.toNat) (v : Nat) : s.write8 a v = s := by
  rw [State.write8, Memory.write8_unmapped s.mem v h]

/-- Settles O38: past the end of one window, outside the other, an address is in neither. -/
theorem windowNeighboursAreUnmapped : Obligations.WindowNeighboursAreUnmapped := by
  intro s a v h
  have hun : ¬ s.cfg.Mapped a.toNat := by
    simp only [Config.Mapped, Config.InRAM, Config.InROM] at h ⊢
    omega
  exact ⟨read8_of_unmapped hun, write8_of_unmapped hun v⟩

/-- An access of any width whose bytes are all unmapped reads 0 and writes nothing (R54, R55). -/
theorem access_of_unmapped {s : State} {w : Width} {a : Word}
    (h : ∀ k, k < w.bytes → ¬ s.cfg.Mapped (a + BitVec.ofNat 32 k).toNat) (v : Nat) :
    s.memRead w a = 0 ∧ s.memWrite w a v = s := by
  have h0 : ¬ s.cfg.Mapped a.toNat := by simpa using h 0 (by cases w <;> decide)
  cases w with
  | w8 => exact ⟨congrArg BitVec.toNat (read8_of_unmapped h0), write8_of_unmapped h0 v⟩
  | w16 =>
    have h1 : ¬ s.cfg.Mapped (a + 1).toNat := h 1 (by decide)
    constructor
    · rw [State.memRead, State.read16_toNat, read8_of_unmapped h0, read8_of_unmapped h1]
      rfl
    · rw [State.memWrite, State.write16, Memory.write16, Memory.write8_unmapped _ _ h0, Memory.write8_unmapped _ _ h1]
  | w32 =>
    have h1 : ¬ s.cfg.Mapped (a + 1).toNat := h 1 (by decide)
    have h2 : ¬ s.cfg.Mapped (a + 2).toNat := h 2 (by decide)
    have h3 : ¬ s.cfg.Mapped (a + 3).toNat := h 3 (by decide)
    constructor
    · rw [State.memRead, State.read32_toNat, read8_of_unmapped h0, read8_of_unmapped h1, read8_of_unmapped h2,
        read8_of_unmapped h3]
      rfl
    · rw [State.memWrite, State.write32, Memory.write32, Memory.write8_unmapped _ _ h0, Memory.write8_unmapped _ _ h1,
        Memory.write8_unmapped _ _ h2, Memory.write8_unmapped _ _ h3]

/-- Settles O39: the premise makes each byte of the access unmapped. -/
theorem deviceRegionsAreUnmapped : Obligations.DeviceRegionsAreUnmapped :=
  fun _ _ _ v hdevices hin => access_of_unmapped (fun k hk => hdevices _ (hin k hk)) v

/-- Settles O40: a global access goes through map and memory alone, an offset access through one peripheral's registers. -/
theorem globalAndOffsetSpacesAreSeparate : Obligations.GlobalAndOffsetSpacesAreSeparate := by
  intro s w p a o v
  refine ⟨⟨_, memWrite_eq s w a v⟩, fun g t l => ?_, ?_⟩
  · cases w <;> rfl
  · obtain ⟨g, t, l, h, -⟩ := peripheralsOnly_periphWrite s p w o v
    exact ⟨g, t, l, h⟩

/-! Bytes and words written. -/

theorem byteOf_zero (v : Nat) : byteOf v 0 = BitVec.ofNat 8 v := rfl

theorem byteOf_eq_ofNat_div (v k : Nat) : byteOf v k = BitVec.ofNat 8 (v / 2 ^ (8 * k)) := by
  rw [byteOf, Nat.shiftRight_eq_div_pow]

theorem read8_write8 (s : State) (a x : Word) (v : Nat) :
    (s.write8 a v).read8 x = if x = a ∧ s.cfg.Mapped a.toNat then BitVec.ofNat 8 v else s.read8 x := by
  have hread := Memory.read8_write8 (c := s.cfg) s.mem a v x
  simp only [eq_comm (a := a), byteOf_zero] at hread
  exact hread

/-- Settles O31, by what a byte write leaves at every address. -/
theorem byteWriteThenRead : Obligations.ByteWriteThenRead :=
  fun s a x v => ⟨read8_write8 s a x v, read8_of_unmapped, fun h => write8_of_unmapped h v, _, rfl⟩

/-- The first `k` bytes of `v` have landed from `a` on, each where its own address is mapped, and every other byte is as before
(R63, R64, R69, R70). -/
def BytesLanded (c : Config) (a : Word) (v k : Nat) (m m' : Memory) : Prop :=
  ∀ x : Word, m'.read8 c x = if (x - a).toNat < k ∧ c.Mapped x.toNat then byteOf v (x - a).toNat else m.read8 c x

theorem BytesLanded.zero (c : Config) (a : Word) (v : Nat) (m : Memory) : BytesLanded c a v 0 m m := by
  intro x
  rw [if_neg fun h => Nat.not_lt_zero _ h.1]

/-- An address at distance `k` from `a` is `a + k`. -/
theorem add_ofNat_eq_iff {k : Nat} (hk : k < 2 ^ 32) (a x : Word) : a + BitVec.ofNat 32 k = x ↔ (x - a).toNat = k := by
  have htoNat : (BitVec.ofNat 32 k).toNat = k := by rw [BitVec.toNat_ofNat, Nat.mod_eq_of_lt hk]
  rw [← htoNat, BitVec.toNat_inj, BitVec.ofNat_toNat, BitVec.setWidth_eq, eq_comm, BitVec.sub_eq_iff_eq_add, BitVec.add_comm]

/-- One more byte written behind those that have landed. -/
theorem BytesLanded.succ {c : Config} {a : Word} {v k : Nat} {m m' : Memory} (hk : k < 2 ^ 32) (h : BytesLanded c a v k m m') :
    BytesLanded c a v (k + 1) m (m'.write8 c (a + BitVec.ofNat 32 k) (v >>> (8 * k))) := by
  intro x
  rw [Memory.read8_write8, h x]
  by_cases haddr : a + BitVec.ofNat 32 k = x
  · have hx : (x - a).toNat = k := (add_ofNat_eq_iff hk a x).1 haddr
    simp [haddr, hx, byteOf_shiftRight]
  · have hx : (x - a).toNat ≠ k := mt (add_ofNat_eq_iff hk a x).2 haddr
    have hlt : (x - a).toNat < k + 1 ↔ (x - a).toNat < k := by omega
    simp only [haddr, hlt, false_and, if_false]

theorem bytesLanded_write8 (c : Config) (a : Word) (v : Nat) (m : Memory) :
    BytesLanded c a v 1 m (m.write8 c a (v >>> 0)) := by
  simpa using (BytesLanded.zero c a v m).succ (by decide)

theorem bytesLanded_write16 (c : Config) (a : Word) (v : Nat) (m : Memory) : BytesLanded c a v 2 m (m.write16 c a v) :=
  (bytesLanded_write8 c a v m).succ (by decide)

theorem bytesLanded_write32 (c : Config) (a : Word) (v : Nat) (m : Memory) : BytesLanded c a v 4 m (m.write32 c a v) :=
  ((bytesLanded_write16 c a v m).succ (by decide)).succ (by decide)

/-- Settles O33: the bytes of the value land one behind the other. -/
theorem wideWritesLandByteByByte : Obligations.WideWritesLandByteByByte := by
  intro s a x v
  rw [← byteOf_eq_ofNat_div]
  exact ⟨bytesLanded_write16 s.cfg a v s.mem x, bytesLanded_write32 s.cfg a v s.mem x⟩

/-- A word is composed of the four bytes from its address on (R61, R70). -/
theorem read32_of_bytes {s : State} {a : Word} {b : Nat → Byte} (h : ∀ k, k < 4 → s.read8 (a + BitVec.ofNat 32 k) = b k) :
    s.read32 a = le32 (b 0) (b 1) (b 2) (b 3) := by
  have h0 : s.read8 a = b 0 := by simpa using h 0 (by decide)
  have h1 : s.read8 (a + 1) = b 1 := h 1 (by decide)
  have h2 : s.read8 (a + 2) = b 2 := h 2 (by decide)
  have h3 : s.read8 (a + 3) = b 3 := h 3 (by decide)
  rw [← h0, ← h1, ← h2, ← h3]
  rfl

/-- Settles O34: each of the four bytes reads back, and together they are the value modulo 2^32. -/
theorem wordWriteReadsBack : Obligations.WordWriteReadsBack := by
  intro s a v h0 h1 h2 h3
  have hmapped : ∀ k, k < 4 → s.cfg.Mapped (a + BitVec.ofNat 32 k).toNat
    | 0, _ => by simpa using h0
    | 1, _ => h1
    | 2, _ => h2
    | 3, _ => h3
  have hbyte (k : Nat) (hk : k < 4) : (s.write32 a v).read8 (a + BitVec.ofNat 32 k) = byteOf v k := by
    have hdist : (a + BitVec.ofNat 32 k - a).toNat = k := (add_ofNat_eq_iff (by omega) a _).1 rfl
    have hread := bytesLanded_write32 s.cfg a v s.mem (a + BitVec.ofNat 32 k)
    rw [hdist, if_pos ⟨hk, hmapped k hk⟩] at hread
    exact hread
  rw [read32_of_bytes hbyte, le32_byteOf]

/-! `load`. -/

/-- The window that `load` copies into, by its last address: RAM if the offset lies there, or else ROM (R66). -/
def LoadWindow (c : Config) (offset last : Nat) : Prop :=
  (c.InRAM offset ∧ last = c.ramEnd.toNat) ∨ (¬ c.InRAM offset ∧ c.InROM offset ∧ last = c.romEnd.toNat)

theorem LoadWindow.mapped {c : Config} {offset last x : Nat} (h : LoadWindow c offset last) (hge : offset ≤ x) (hle : x ≤ last) :
    c.Mapped x := by
  obtain ⟨hram, rfl⟩ | ⟨-, hrom, rfl⟩ := h
  · exact .inl ⟨hram.1.trans hge, hle⟩
  · exact .inr ⟨hrom.1.trans hge, hle⟩

theorem load_of_window {s : State} {offset last : Nat} (h : LoadWindow s.cfg offset last) (data : List Byte) :
    s.load data offset = { s with mem := Memory.copyIn s.cfg last offset data s.mem } := by
  obtain ⟨hram, rfl⟩ | ⟨hram, hrom, rfl⟩ := h
  · rw [State.load, Memory.load, if_pos hram]
  · rw [State.load, Memory.load, if_neg hram, if_pos hrom]

theorem load_of_unmapped {s : State} {offset : Nat} (h : ¬ s.cfg.Mapped offset) (data : List Byte) :
    s.load data offset = s.report (.loadOutOfWindow offset data.length) := by
  rw [State.load, Memory.load, if_neg fun hram => h (.inl hram), if_neg fun hrom => h (.inr hrom)]

/-- A byte after a load into a window, at every address. -/
theorem read8_load_of_window {s : State} {offset last : Nat} (h : LoadWindow s.cfg offset last) (data : List Byte) (a : Word) :
    (s.load data offset).read8 a =
      if offset ≤ a.toNat ∧ a.toNat < offset + data.length ∧ a.toNat ≤ last then data.getD (a.toNat - offset) 0
      else s.read8 a := by
  rw [load_of_window h, State.read8, State.read8, Memory.read8, Memory.read8, Memory.get_copyIn]
  by_cases hin : offset ≤ a.toNat ∧ a.toNat < offset + data.length ∧ a.toNat ≤ last
  · have hm : s.cfg.Mapped a.toNat := h.mapped hin.1 hin.2.2
    rw [if_pos hm, if_pos hin, if_pos hin]
  · rw [if_neg hin, if_neg hin]

/-- Settles O36: the copying loop runs up to the end of the offset's window, or the call is a report. -/
theorem loadCopiesIntoOneWindow : Obligations.LoadCopiesIntoOneWindow :=
  fun _ data _ => ⟨fun _ h => ⟨⟨_, load_of_window h data⟩, read8_load_of_window h data⟩, fun h => load_of_unmapped h data⟩

/-! The canonical form. -/

theorem mem_iff_find {m : Memory} (h : (m.map Prod.fst).Pairwise (· < ·)) (a : Nat) (b : Byte) :
    (a, b) ∈ m ↔ m.find a = some b := by
  induction m with
  | nil => simp [Memory.find]
  | cons cell m ih =>
    obtain ⟨k, v⟩ := cell
    rw [List.map_cons, List.pairwise_cons] at h
    by_cases hk : k = a
    · subst hk
      have hnot : (k, b) ∉ m := fun hm => Nat.lt_irrefl k (h.1 k (List.mem_map_of_mem hm))
      simp [Memory.find, hnot, eq_comm]
    · simp [Memory.find, hk, Ne.symm hk, ih h.2]

theorem lt_of_mapped {c : Config} {a : Nat} (h : c.Mapped a) : a < 2 ^ 32 := by
  have hram := c.ramEnd.isLt
  have hrom := c.romEnd.isLt
  simp only [Config.Mapped, Config.InRAM, Config.InROM] at h
  omega

/-- In the canonical form a cell is listed exactly where a mapped address does not read as nobody wrote it. -/
theorem mem_iff_read8 {c : Config} {m : Memory} (h : m.wf c) (a : Nat) (b : Byte) :
    (a, b) ∈ m ↔ c.Mapped a ∧ b ≠ Memory.unlisted c a ∧ m.read8 c (BitVec.ofNat 32 a) = b := by
  obtain ⟨hrising, hcells⟩ := h
  have hread (ha : c.Mapped a) : m.read8 c (BitVec.ofNat 32 a) = (m.find a).getD (Memory.unlisted c a) := by
    rw [Memory.read8, BitVec.toNat_ofNat, Nat.mod_eq_of_lt (lt_of_mapped ha), if_pos ha, Memory.get]
  rw [mem_iff_find hrising]
  constructor
  · intro hfind
    obtain ⟨ha, hb⟩ := hcells _ ((mem_iff_find hrising a b).2 hfind)
    exact ⟨ha, hb, by rw [hread ha, hfind, Option.getD_some]⟩
  · rintro ⟨ha, hb, hab⟩
    rw [hread ha] at hab
    cases hfind : m.find a with
    | none => exact absurd (by rw [hfind] at hab; exact hab.symm) hb
    | some x => rw [hfind] at hab; exact congrArg some hab

/-- Rising lists of the same cells are the same list. -/
theorem eq_of_rising_of_mem_iff {m₁ m₂ : Memory} (h₁ : (m₁.map Prod.fst).Pairwise (· < ·))
    (h₂ : (m₂.map Prod.fst).Pairwise (· < ·)) (h : ∀ cell, cell ∈ m₁ ↔ cell ∈ m₂) : m₁ = m₂ := by
  rw [List.pairwise_map] at h₁ h₂
  have hnodup {m : Memory} (hm : m.Pairwise fun x y => x.1 < y.1) : m.Nodup := hm.imp fun hlt e => hlt.ne (congrArg _ e)
  have hperm : m₁.Perm m₂ := (List.perm_ext_iff_of_nodup (hnodup h₁) (hnodup h₂)).2 h
  exact hperm.eq_of_pairwise (fun x y _ _ hxy hyx => absurd hyx hxy.asymm) h₁ h₂

/-- Settles O37: what is listed in the canonical form is determined by what is read. -/
theorem canonicalMemoriesAreEqual : Obligations.CanonicalMemoriesAreEqual := by
  intro c m₁ m₂ h₁ h₂ hread
  refine eq_of_rising_of_mem_iff h₁.1 h₂.1 fun ⟨a, b⟩ => ?_
  rw [mem_iff_read8 h₁, mem_iff_read8 h₂, hread]

end Sys2Proof.Proofs

/-! Registers, `cpu.reset()`, the vectors and the launch (spec/10_state.md R20, R21; spec/70_reset_and_hazards.md R261 to R272;
spec/60_exceptions.md R208, R209). -/

namespace Sys2Proof.Proofs
open Machine

/-- Settles O23: a read after a write is decided by the register index, r0 like the others. -/
theorem registersReadBackWhatWasWritten : Obligations.RegistersReadBackWhatWasWritten := by
  refine fun s i v => ⟨?_, fun j hj => ?_, State.writeReg_usp s i v, State.writeReg_isp s i v⟩
  · rw [readReg_writeReg, if_pos rfl]
  · rw [readReg_writeReg, if_neg hj.symm]

theorem readReg_cpuReset (s : State) (i : RegIdx) : s.cpuReset.readReg i = 0 := by
  rw [State.readReg, State.cpuReset_regs]
  exact Vector.getElem_replicate _

/-- Settles O45: the registers are all 0, and the other items stand in the record that `cpu.reset()` writes. -/
theorem cpuResetSetsEveryCpuItem : Obligations.CpuResetSetsEveryCpuItem :=
  fun s => ⟨readReg_cpuReset s, State.cpuReset_acc s, State.cpuReset_psw s, State.cpuReset_usp s, State.cpuReset_isp s,
    State.cpuReset_pc s⟩

/-- Settles O46, field by field. -/
theorem cpuResetChangesCpuStateOnly : Obligations.CpuResetChangesCpuStateOnly :=
  fun s => ⟨State.cpuReset_mem s, State.cpuReset_pending s, State.cpuReset_timer s, State.cpuReset_gpio s,
    State.cpuReset_serial s, State.cpuReset_reports s, State.cpuReset_cfg s⟩

/-- After `cpu.reset()` the snapshot is a function of map and memory. -/
theorem snapshot_cpuReset (s : State) :
    s.cpuReset.snapshot =
      { pc := s.mem.read32 s.cfg s.cfg.resetVectorAddr, usp := resetUsp, isp := s.cfg.ispReset, regs := resetRegs,
        psw := resetPsw } := rfl

/-- Settles O47: reset reads nothing but map and memory, and writes neither. -/
theorem cpuResetIsIdempotent : Obligations.CpuResetIsIdempotent := by
  intro s t hcfg hmem
  refine ⟨?_, rfl⟩
  rw [snapshot_cpuReset, snapshot_cpuReset, hcfg, hmem]

/-- At power-on every byte reads as nobody wrote it (R33, R54). -/
theorem read8_powerOn (c : Config) (a : Word) : (State.powerOn c).read8 a = Memory.unlisted c a.toNat :=
  read8_nil c a

theorem unlisted_of_not_inROM {c : Config} {a : Nat} (h : ¬ c.InROM a) : Memory.unlisted c a = 0 := by
  rw [Memory.unlisted, if_neg h, ramFill, ite_self]

/-- The unseeded slot holds four times what its bytes all read as (R263). -/
theorem pc_powerOn_cpuReset {c : Config} {x : Byte}
    (h : ∀ k, k < 4 → Memory.unlisted c (c.resetVectorAddr + BitVec.ofNat 32 k).toNat = x) :
    (State.powerOn c).cpuReset.pc = le32 x x x x := by
  have hbytes (k : Nat) (hk : k < 4) : (State.powerOn c).read8 (c.resetVectorAddr + BitVec.ofNat 32 k) = x := by
    rw [read8_powerOn, h k hk]
  exact (State.cpuReset_pc _).trans (read32_of_bytes (b := fun _ => x) hbytes)

/-- Settles O48: untouched ROM reads 03 in every byte, and everything else reads 0. -/
theorem unseededResetVector : Obligations.UnseededResetVector := by
  refine fun c => ⟨fun hrom => ?_, fun hno => ?_⟩
  · rw [pc_powerOn_cpuReset fun k hk => unlisted_of_inROM (hrom k hk).1 (hrom k hk).2]
    rfl
  · rw [pc_powerOn_cpuReset fun k hk => unlisted_of_not_inROM (hno k hk)]
    rfl

theorem getVectorAddress_toNat (s : State) (v : Nat) :
    (s.getVectorAddress v).toNat = (s.cfg.vectorTableBase.toNat + 4 * v) % 2 ^ 32 :=
  BitVec.toNat_ofNat _ _

/-- Settles O52: the address is a number cut to 32 bits, and resolving is the word read there. -/
theorem vectorsResolveThroughTheTable : Obligations.VectorsResolveThroughTheTable :=
  fun s v => ⟨getVectorAddress_toNat s v, rfl⟩

/-! The launch. -/

theorem load_cfg (s : State) (data : List Byte) (offset : Nat) : (s.load data offset).cfg = s.cfg := by
  obtain ⟨m, -, h⟩ | ⟨-, h⟩ := load_cases s data offset <;> rw [h]
  rfl

/-- In a bootable map the slot's four bytes lie in the window that a load at the slot fills (R6). -/
theorem exists_loadWindow_of_bootable {c : Config} (hvalid : c.Valid) (hboot : c.Bootable) :
    ∃ last, LoadWindow c c.resetVectorAddr.toNat last ∧ c.resetVectorAddr.toNat + 3 ≤ last := by
  obtain ⟨-, -, hdisjoint, -⟩ := hvalid
  obtain ⟨hram, hend⟩ | ⟨hrom, hend⟩ := hboot
  · exact ⟨_, .inl ⟨hram, rfl⟩, hend.2⟩
  · have hnot : ¬ c.InRAM c.resetVectorAddr.toNat := fun hram => by
      simp only [Config.InRAM, Config.InROM, Config.Disjoint] at hram hrom hdisjoint
      omega
    exact ⟨_, .inr ⟨hnot, hrom, rfl⟩, hend.2⟩

/-- Four bytes loaded where a window has room for them are the word there, composed of them. -/
theorem read32_load_of_window {s : State} {a : Word} {last : Nat} (h : LoadWindow s.cfg a.toNat last) (hroom : a.toNat + 3 ≤ last)
    (b : Nat → Byte) : (s.load [b 0, b 1, b 2, b 3] a.toNat).read32 a = le32 (b 0) (b 1) (b 2) (b 3) := by
  refine read32_of_bytes fun k hk => ?_
  have hlast := lt_of_mapped (h.mapped (by omega) (Nat.le_refl last))
  have haddr : (a + BitVec.ofNat 32 k).toNat = a.toNat + k := by
    rw [BitVec.toNat_add, BitVec.toNat_ofNat]
    omega
  rw [read8_load_of_window h, haddr, if_pos ⟨Nat.le_add_right _ _, by simpa using hk, by omega⟩, Nat.add_sub_cancel_left]
  match k, hk with
  | 0, _ => rfl
  | 1, _ => rfl
  | 2, _ => rfl
  | 3, _ => rfl

theorem launch_of_errors_eq_nil {source : List Char} (h : (assemble source).errors = []) (offset : Nat) (s : State) :
    launch source offset s =
      some (((s.load (assemble source).code offset).load
        [byteOf offset 0, byteOf offset 1, byteOf offset 2, byteOf offset 3] s.cfg.resetVectorAddr.toNat).cpuReset) := by
  simp [launch, h]

theorem launch_of_errors_ne_nil {source : List Char} (h : (assemble source).errors ≠ []) (offset : Nat) (s : State) :
    launch source offset s = none := by
  simp [launch, h]

/-- Settles O22: the offset seeded into the slot is the word that the reset reads back. -/
theorem launchRefusesErrorsAndStartsAtTheOffset : Obligations.LaunchRefusesErrorsAndStartsAtTheOffset := by
  refine fun source offset s => ⟨fun h => launch_of_errors_ne_nil h offset s, fun h hvalid hboot hoffset => ?_⟩
  refine ⟨_, launch_of_errors_eq_nil h offset s, ?_, rfl⟩
  obtain ⟨last, hwindow, hroom⟩ := exists_loadWindow_of_bootable hvalid hboot
  have hcfg := load_cfg s (assemble source).code offset
  rw [← hcfg] at hwindow hroom
  have hseed := read32_load_of_window hwindow hroom (byteOf offset)
  rw [le32_byteOf, hcfg] at hseed
  rw [State.cpuReset_pc, load_cfg, hcfg, hseed, BitVec.toNat_ofNat, Nat.mod_eq_of_lt hoffset]

end Sys2Proof.Proofs

/-! The interrupt queue's whole delivery and the timer's ticks (spec/60_exceptions.md R202 to R206, R212, R228, R229). -/

namespace Sys2Proof.Proofs
open Machine

/-! The queue. -/

/-- The queue after a list of requests, made in order. -/
def queueAfter (rs : List InterruptRequest) (q : List InterruptRequest) : List InterruptRequest :=
  rs.foldl (fun q r => insertRequest r q) q

theorem foldl_requestInterrupt (rs : List InterruptRequest) (s : State) :
    rs.foldl State.requestInterrupt s = { s with pending := queueAfter rs s.pending } := by
  induction rs generalizing s with
  | nil => rfl
  | cons r rs ih => exact ih (s.requestInterrupt r)

theorem insertRequest_perm {q : List InterruptRequest} (r : InterruptRequest) (h : PendingSorted q) :
    (insertRequest r q).Perm (r :: q) := by
  obtain ⟨front, back, rfl, -, -, hinsert⟩ := insertRequest_split r h
  rw [hinsert]
  exact List.perm_middle

theorem filter_priority_insertRequest {q : List InterruptRequest} (r : InterruptRequest) (h : PendingSorted q) (p : Nat) :
    (insertRequest r q).filter (fun x => x.priority == p) =
      q.filter (fun x => x.priority == p) ++ [r].filter (fun x => x.priority == p) := by
  obtain ⟨front, back, rfl, -, hback, hinsert⟩ := insertRequest_split r h
  rw [hinsert, filter_priority_append_cons hback]
  simp [List.filter_singleton]

theorem queueAfter_sorted (rs : List InterruptRequest) {q : List InterruptRequest} (h : PendingSorted q) :
    PendingSorted (queueAfter rs q) := by
  induction rs generalizing q with
  | nil => exact h
  | cons r rs ih => exact ih (insertRequest_sorted h)

theorem queueAfter_perm (rs : List InterruptRequest) {q : List InterruptRequest} (h : PendingSorted q) :
    (queueAfter rs q).Perm (q ++ rs) := by
  induction rs generalizing q with
  | nil => rw [List.append_nil]; exact List.Perm.refl q
  | cons r rs ih =>
    calc
      (queueAfter rs (insertRequest r q)).Perm (insertRequest r q ++ rs) := ih (insertRequest_sorted h)
      List.Perm _ (r :: (q ++ rs)) := (insertRequest_perm r h).append_right rs
      List.Perm _ (q ++ r :: rs) := List.perm_middle.symm

/-- Each priority class is first come, first served (R202, R206). -/
theorem filter_priority_queueAfter (rs : List InterruptRequest) {q : List InterruptRequest} (h : PendingSorted q) (p : Nat) :
    (queueAfter rs q).filter (fun x => x.priority == p) = (q ++ rs).filter (fun x => x.priority == p) := by
  induction rs generalizing q with
  | nil => rw [List.append_nil]; rfl
  | cons r rs ih =>
    have hrest : (queueAfter rs (insertRequest r q)).filter _ = _ := ih (insertRequest_sorted h)
    rw [List.filter_append, filter_priority_insertRequest r h, ← List.filter_append, ← List.filter_append,
      List.append_assoc] at hrest
    exact hrest

/-- As many `popNext` as there are requests deliver the queue from the front and empty it (R205, R212). -/
theorem popMany_all (q : List InterruptRequest) (s : State) :
    State.popMany q.length { s with pending := q } = (q, { s with pending := [] }) := by
  induction q with
  | nil => rfl
  | cons r rest ih =>
    have hpop := popNext_of_pending_cons (s := { s with pending := r :: rest }) rfl
    simp only [List.length_cons, State.popMany, hpop, ih]

/-- Settles O50: the queue is sorted, holds the requests in the order of each class, and is delivered from the front. -/
theorem requestsAreDeliveredByPriorityThenAge : Obligations.RequestsAreDeliveredByPriorityThenAge := by
  intro s rs hempty
  have hnil : PendingSorted [] := List.Pairwise.nil
  have hperm : (queueAfter rs []).Perm rs := queueAfter_perm rs hnil
  have hpop : (rs.foldl State.requestInterrupt s).popMany rs.length = (queueAfter rs [], s) := by
    rw [foldl_requestInterrupt, hempty, ← hperm.length_eq, popMany_all, ← hempty]
  simp only [hpop]
  exact ⟨queueAfter_sorted rs hnil, hperm, filter_priority_queueAfter rs hnil, trivial, popNext_of_pending_nil hempty⟩

/-! The timer's ticks. -/

theorem enabled_eq (t : Timer) : t.enabled = decide (t.EN.toNat % 2 = 1) := Nat.testBit_zero t.EN.toNat

theorem interruptEnabled_eq (t : Timer) : t.interruptEnabled = decide (t.IEN.toNat % 2 = 1) := Nat.testBit_zero t.IEN.toNat

/-- The state with another count in the timer. -/
def withCount (s : State) (c : Word) : State := { s with timer := { s.timer with CNT := c } }

theorem timerTick_of_disabled {s : State} (hen : s.timer.EN.toNat % 2 = 0) (n : Nat) : s.timerTick n = s := by
  have hoff : s.timer.enabled = false := by simp [enabled_eq, hen]
  simp [State.timerTick, hoff]

theorem timerTick_below_compare {s : State} {n : Nat} (hen : s.timer.EN.toNat % 2 = 1)
    (hlt : s.timer.CNT.toNat + n < s.timer.CMP.toNat) :
    s.timerTick n = withCount s (BitVec.ofNat 32 (s.timer.CNT.toNat + n)) := by
  have hon : s.timer.enabled = true := by simp [enabled_eq, hen]
  have hhit : s.timer.hitsCompare n = false := by simpa [Timer.hitsCompare] using hlt
  simp [State.timerTick, withCount, hon, hhit]

theorem timerTick_at_compare {s : State} {n : Nat} (hen : s.timer.EN.toNat % 2 = 1)
    (hle : s.timer.CMP.toNat ≤ s.timer.CNT.toNat + n) :
    s.timerTick n =
      if s.timer.IEN.toNat % 2 = 1 then (withCount s 0).requestInterrupt s.timerRequest else withCount s 0 := by
  have hon : s.timer.enabled = true := by simp [enabled_eq, hen]
  have hhit : s.timer.hitsCompare n = true := by simpa [Timer.hitsCompare] using hle
  simp [State.timerTick, withCount, hon, hhit, interruptEnabled_eq]

/-- Settles O53, by the three cases of a tick. -/
theorem timerTickByCases : Obligations.TimerTickByCases := by
  refine fun s n => ⟨fun hen => timerTick_of_disabled hen n, fun hen hlt => ?_, fun hen hle => ?_, ?_⟩
  · have hbound := s.timer.CMP.isLt
    rw [timerTick_below_compare hen hlt]
    exact ⟨Nat.mod_eq_of_lt (by omega), rfl⟩
  · rw [timerTick_at_compare hen hle]
    split <;> exact ⟨rfl, rfl⟩
  · obtain h | ⟨v, h⟩ | h := timerTick_cases s n <;> exact ⟨_, _, h⟩

theorem withCount_self {s : State} {c : Word} (h : s.timer.CNT = c) : withCount s c = s := by
  subst h
  rfl

theorem withCount_count_toNat {s : State} {k : Nat} (hk : k < s.timer.CMP.toNat) :
    (withCount s (BitVec.ofNat 32 k)).timer.CNT.toNat = k :=
  Nat.mod_eq_of_lt (hk.trans s.timer.CMP.isLt)

/-- Ticked by 1 from 0, an enabled timer counts (R229). -/
theorem iterate_timerTick_below {s : State} (hen : s.timer.EN.toNat % 2 = 1) (hcnt : s.timer.CNT = 0) {k : Nat}
    (hk : k < s.timer.CMP.toNat) : (fun u => State.timerTick u 1)^[k] s = withCount s (BitVec.ofNat 32 k) := by
  induction k with
  | zero => exact (withCount_self hcnt).symm
  | succ k ih =>
    have hcount := withCount_count_toNat (Nat.lt_of_succ_lt hk)
    have htick := timerTick_below_compare (s := withCount s (BitVec.ofNat 32 k)) (n := 1) hen (hcount.symm ▸ hk)
    rw [Function.iterate_succ_apply', ih (Nat.lt_of_succ_lt hk), htick, hcount]
    rfl

/-- Settles O54: the tick after CMP - 1 is the one that reaches the compare value. -/
theorem timerPeriodIsTheCompareValue : Obligations.TimerPeriodIsTheCompareValue := by
  intro s hen hien hcnt hcmp
  refine ⟨fun k hk => iterate_timerTick_below hen hcnt hk, ?_⟩
  obtain ⟨k, hk⟩ : ∃ k, s.timer.CMP.toNat = k + 1 := ⟨_, (Nat.sub_add_cancel hcmp).symm⟩
  have hlt : k < s.timer.CMP.toNat := hk ▸ Nat.lt_succ_self k
  have hcount := withCount_count_toNat hlt
  have htick := (timerTick_at_compare (s := withCount s (BitVec.ofNat 32 k)) (n := 1) hen (hcount.symm ▸ hk.le)).trans
    (if_pos hien)
  have hzero : withCount (withCount s (BitVec.ofNat 32 k)) 0 = s := withCount_self hcnt
  rw [hk, Function.iterate_succ_apply', iterate_timerTick_below hen hcnt hlt, htick, hzero]
  rfl

end Sys2Proof.Proofs

/-! The register files of the peripherals: timer, GPIO and serial, and their wider accesses (spec/60_exceptions.md R220, R226, R227,
R236 to R238, R246 to R249). -/

namespace Sys2Proof.Proofs
open Machine

/-! The timer's bytes. -/

theorem byteOf_setByte (w : Word) (b : Byte) {j k : Nat} (hj : j < 4) (hk : k < 4) :
    byteOf (setByte w k b).toNat j = if j = k then b else byteOf w.toNat j := by
  match k, hk with
  | 0, _ | 1, _ | 2, _ | 3, _ =>
    match j, hj with
    | 0, _ | 1, _ | 2, _ | 3, _ => simp [setByte, byteOf_le32]

/-- A timer write is seen at its own offset, if that is defined, and nowhere else (R227, decision D14). -/
theorem timer_read8_write8 (t : Timer) (o x : Nat) (v : Byte) :
    (t.write8 o v).read8 x = if x = o ∧ o < 10 then v else t.read8 x := by
  unfold Timer.write8
  split
  · next ho =>
    have ho10 : o < 10 := by omega
    by_cases hx : x < 4
    · simp [Timer.read8, hx, byteOf_setByte, ho, ho10]
    · have hne : x ≠ o := by omega
      simp [Timer.read8, hx, hne]
  · split
    · next hge ho =>
      have ho10 : o < 10 := by omega
      by_cases hx : 4 ≤ x ∧ x < 8
      · have hlow : ¬ x < 4 := by omega
        have hsame : x - 4 = o - 4 ↔ x = o := by omega
        have hxk : x - 4 < 4 := by omega
        have hok : o - 4 < 4 := by omega
        simp [Timer.read8, hlow, hx.2, byteOf_setByte, hxk, hok, hsame, ho10]
      · have hne : x ≠ o := by omega
        have hcmp : x < 8 ↔ x < 4 := by omega
        by_cases hlow : x < 4 <;> simp [Timer.read8, hcmp, hlow, hne]
    · split
      · next ho =>
        subst ho
        by_cases hx : x = 8 <;> simp [Timer.read8, hx]
      · split
        · next ho =>
          subst ho
          by_cases hx : x = 9 <;> simp [Timer.read8, hx]
        · rw [if_neg (by omega)]

/-- Settles O55: the defined offsets are the bytes of the registers, and no others are. -/
theorem timerRegistersAreByteAddressed : Obligations.TimerRegistersAreByteAddressed := by
  intro t o x v
  refine ⟨timer_read8_write8 t o x v, fun hx => ?_, fun ho => ?_, ?_, ?_, rfl, rfl⟩
  · rw [Timer.read8, if_neg (by omega), if_neg (by omega), if_neg (by omega), if_neg (by omega)]
  · rw [Timer.write8, if_neg (by omega), if_neg (by omega), if_neg (by omega), if_neg (by omega)]
  · exact le32_byteOf_toNat t.CNT
  · exact le32_byteOf_toNat t.CMP

/-! GPIO. -/

theorem gpio_write8_of_two_le (g : Gpio) {o : Nat} (ho : 2 ≤ o) (v : Byte) : g.write8 o v = g := by
  obtain ⟨o, rfl⟩ := Nat.exists_eq_add_of_le' ho
  rfl

theorem gpio_read8_of_three_le (g : Gpio) {o : Nat} (ho : 3 ≤ o) : g.read8 o = 0 := by
  obtain ⟨o, rfl⟩ := Nat.exists_eq_add_of_le' ho
  rfl

/-- Setting an input pin touches IN alone (R237). -/
theorem setInputBit_frame (g : Gpio) (bit value : Nat) :
    (g.setInputBit bit value).DIR = g.DIR ∧ (g.setInputBit bit value).OUT = g.OUT := by
  unfold Gpio.setInputBit
  split
  · split <;> exact ⟨rfl, rfl⟩
  · exact ⟨rfl, rfl⟩

theorem pinMask_getLsbD {bit : Nat} (hbit : bit ≤ 7) (n : Nat) : (1#8 <<< bit).getLsbD n = decide (n = bit) := by
  rw [BitVec.getLsbD_shiftLeft, BitVec.getLsbD_one, Bool.eq_iff_iff]
  simp
  omega

/-- Every bit of IN after setting a pin (R237). -/
theorem setInputBit_getLsbD (g : Gpio) (bit value n : Nat) :
    (g.setInputBit bit value).IN.getLsbD n = if n = bit ∧ bit ≤ 7 then decide (value ≠ 0) else g.IN.getLsbD n := by
  unfold Gpio.setInputBit
  by_cases hbit : bit ≤ 7
  · rw [if_pos hbit]
    by_cases hv : value = 0
    · have hclear : (g.IN &&& ~~~(1#8 <<< bit)).getLsbD n = (g.IN.getLsbD n && (decide (n < 8) && !decide (n = bit))) := by
        rw [BitVec.getLsbD_and, BitVec.getLsbD_not, pinMask_getLsbD hbit]
      rw [if_neg (not_not_intro hv), hclear]
      by_cases hlt : n < 8
      · by_cases hn : n = bit <;> simp [hlt, hn, hv, hbit]
      · have hn : n ≠ bit := by omega
        simp [hlt, hn, BitVec.getLsbD_of_ge g.IN n (Nat.le_of_not_lt hlt)]
    · have hset : (g.IN ||| (1#8 <<< bit)).getLsbD n = (g.IN.getLsbD n || decide (n = bit)) := by
        rw [BitVec.getLsbD_or, pinMask_getLsbD hbit]
      rw [if_pos hv, hset]
      by_cases hn : n = bit <;> simp [hn, hv, hbit]
  · simp [hbit]

/-- Settles O57, register by register and pin by pin. -/
theorem gpioRegistersAndPins : Obligations.GpioRegistersAndPins := by
  refine fun g v o bit value => ⟨⟨rfl, rfl, fun ho => gpio_write8_of_two_le g ho v⟩,
    ⟨rfl, rfl, rfl, fun ho => gpio_read8_of_three_le g ho⟩, setInputBit_frame g bit value, setInputBit_getLsbD g bit value,
    fun hbit => ?_, fun hbit => ?_⟩
  · rw [Gpio.getOutputBit, if_pos hbit]
  · rw [Gpio.getOutputBit, if_neg (Nat.not_le_of_lt hbit)]

/-! Serial. -/

theorem periphWrite_serial_zero (s : State) (w : Width) (v : Nat) :
    s.periphWrite .serial w 0 v = { s with serial := { LOG := s.serial.LOG ++ [BitVec.ofNat 8 v] } } := by
  cases w <;> rfl

theorem periphWrite_serial_succ (s : State) (w : Width) (o v : Nat) : s.periphWrite .serial w (o + 1) v = s := by
  cases w <;> rfl

/-- Settles O58: the byte at offset 0 is the one byte of an access that is not dropped. -/
theorem serialAppendsOneCharacterPerWrite : Obligations.SerialAppendsOneCharacterPerWrite := by
  refine fun s w o v n => ⟨periphWrite_serial_zero s w v, fun ho => ?_, ?_, rfl, rfl⟩
  · obtain ⟨o, rfl⟩ := Nat.exists_eq_add_of_le' ho
    exact periphWrite_serial_succ s w o v
  · cases w with
    | w8 => rfl
    | w16 => exact le16_toNat 0 0
    | w32 => exact le32_toNat 0 0 0 0

/-! Wider accesses. -/

/-- Settles O59, by the value of a little-endian composition of bytes. -/
theorem peripheralWideReadsAreComposed : Obligations.PeripheralWideReadsAreComposed :=
  fun _ _ _ => ⟨le16_toNat _ _, le32_toNat _ _ _ _⟩

/-- A byte write takes the low byte of its value, so a shift to byte `k` may cut it there (R220, decision D25). -/
theorem periphWrite8_shiftRight (s : State) (p : Peripheral) (o v k : Nat) :
    s.periphWrite8 p o (v >>> k) = s.periphWrite8 p o (v / 2 ^ k % 2 ^ 8) := by
  have hbyte : byteOf (v >>> k) 0 = byteOf (v / 2 ^ k % 2 ^ 8) 0 := by
    apply BitVec.eq_of_toNat_eq
    simp [byteOf_toNat, Nat.shiftRight_eq_div_pow]
  cases p <;> simp only [State.periphWrite8, hbyte]

/-- The wider writes as byte writes of the bytes of the value, in ascending order (R220, decisions D24 and D25). -/
theorem periphWrite_eq_bytes (s : State) (p : Peripheral) (o v : Nat) :
    s.periphWrite p .w16 o v = (s.periphWrite p .w8 o (v % 2 ^ 8)).periphWrite p .w8 (o + 1) (v / 2 ^ 8 % 2 ^ 8) ∧
      s.periphWrite p .w32 o v =
        (((s.periphWrite p .w8 o (v % 2 ^ 8)).periphWrite p .w8 (o + 1) (v / 2 ^ 8 % 2 ^ 8)).periphWrite p .w8 (o + 2)
          (v / 2 ^ 16 % 2 ^ 8)).periphWrite p .w8 (o + 3) (v / 2 ^ 24 % 2 ^ 8) := by
  simp only [State.periphWrite, State.periphWrite16, State.periphWrite32, periphWrite8_shiftRight, Nat.pow_zero, Nat.div_one,
    and_self]

theorem periphWrite_timer_cnt (s : State) (v : Nat) :
    s.periphWrite .timer .w32 0 v = { s with timer := { s.timer with CNT := BitVec.ofNat 32 v } } := by
  rw [← le32_byteOf, ← setByte_all s.timer.CNT, ← byteOf_shiftRight v 0, ← byteOf_shiftRight v 1, ← byteOf_shiftRight v 2,
    ← byteOf_shiftRight v 3]
  rfl

theorem periphWrite_timer_cmp (s : State) (v : Nat) :
    s.periphWrite .timer .w32 4 v = { s with timer := { s.timer with CMP := BitVec.ofNat 32 v } } := by
  rw [← le32_byteOf, ← setByte_all s.timer.CMP, ← byteOf_shiftRight v 0, ← byteOf_shiftRight v 1, ← byteOf_shiftRight v 2,
    ← byteOf_shiftRight v 3]
  rfl

/-- Byte 1 of a value, as a wider access cuts it out. -/
theorem ofNat_div_eq_byteOf_shiftRight (v : Nat) : BitVec.ofNat 8 (v / 2 ^ 8) = byteOf (v >>> 8) 0 := by
  rw [byteOf_zero, Nat.shiftRight_eq_div_pow]

/-- A wider write at EN sets both enable bytes, and offsets 10 and 11 drop theirs (decision D14). -/
theorem periphWrite_timer_enables (s : State) {w : Width} (hw : w ≠ .w8) (v : Nat) :
    s.periphWrite .timer w 8 v =
      { s with timer := { s.timer with EN := BitVec.ofNat 8 v, IEN := BitVec.ofNat 8 (v / 2 ^ 8) } } := by
  rw [ofNat_div_eq_byteOf_shiftRight]
  cases w with
  | w8 => exact absurd rfl hw
  | w16 => rfl
  | w32 => rfl

/-- A wider write at DIR sets DIR and OUT, and IN and offset 3 drop theirs (decision D16). -/
theorem periphWrite_gpio_dir (s : State) {w : Width} (hw : w ≠ .w8) (v : Nat) :
    s.periphWrite .gpio w 0 v =
      { s with gpio := { s.gpio with DIR := BitVec.ofNat 8 v, OUT := BitVec.ofNat 8 (v / 2 ^ 8) } } := by
  rw [ofNat_div_eq_byteOf_shiftRight]
  cases w with
  | w8 => exact absurd rfl hw
  | w16 => rfl
  | w32 => rfl

theorem periphWrite_gpio_out (s : State) (w : Width) (v : Nat) :
    s.periphWrite .gpio w 1 v = { s with gpio := { s.gpio with OUT := BitVec.ofNat 8 v } } := by
  cases w <;> rfl

/-- Settles O60: the bytes of the value, and then the registers that they reach. -/
theorem peripheralWideWritesAreComposed : Obligations.PeripheralWideWritesAreComposed :=
  fun s o v => ⟨fun p => periphWrite_eq_bytes s p o v, periphWrite_timer_cnt s v, periphWrite_timer_cmp s v,
    fun _ hw => periphWrite_timer_enables s hw v, fun _ hw => periphWrite_gpio_dir s hw v,
    fun w => periphWrite_gpio_out s w v⟩

end Sys2Proof.Proofs

/-! The assembler's errors line by line, and the way from a disassembled instruction back to its encoding
(spec/30_encoding.md R104 to R114). -/

namespace Sys2Proof.Proofs
open Machine

/-! Errors. -/

/-- The error of a numbered line, if the line is rejected (R111). -/
def lineError (l : List Char × Nat) : Option AsmError :=
  match assembleLine l.1 with
  | .error r => some { line := l.2, reason := r }
  | .skip => none
  | .instr _ => none

theorem lineError_eq_some_iff (l : List Char × Nat) (e : AsmError) :
    lineError l = some e ↔ l.2 = e.line ∧ assembleLine l.1 = .error e.reason := by
  unfold lineError
  cases h : assembleLine l.1 with
  | skip => simp
  | instr i => simp
  | error r => cases e; simp

/-- The error list is the errors of the numbered lines, in order (R110, R111). -/
theorem assembleLines_errors (n : Nat) (ls : List (List Char)) :
    (assembleLines n ls).errors = (ls.zipIdx n).filterMap lineError := by
  induction ls generalizing n with
  | nil => rfl
  | cons l ls ih =>
    cases h : assembleLine l with
    | skip => simp [assembleLines, lineError, h, ih]
    | instr i => simp [assembleLines, lineError, h, ih]
    | error r => simp [assembleLines, lineError, h, ih]

theorem zipIdx_rising (n : Nat) (ls : List (List Char)) : (ls.zipIdx n).Pairwise fun x y => x.2 < y.2 := by
  rw [← List.pairwise_map, List.zipIdx_map_snd]
  exact List.pairwise_lt_range'

/-- Error lines rise with the numbers of the lines (R111). -/
theorem assembleLines_errors_rising (n : Nat) (ls : List (List Char)) :
    ((assembleLines n ls).errors.map AsmError.line).Pairwise (· < ·) := by
  rw [assembleLines_errors, List.pairwise_map, List.pairwise_filterMap]
  refine (zipIdx_rising n ls).imp fun {x y} hxy e he e' he' => ?_
  rw [← ((lineError_eq_some_iff x e).1 he).1, ← ((lineError_eq_some_iff y e').1 he').1]
  exact hxy

theorem mem_assembleLines_errors (n : Nat) (ls : List (List Char)) (e : AsmError) :
    e ∈ (assembleLines n ls).errors ↔ n ≤ e.line ∧ ∃ l, ls[e.line - n]? = some l ∧ assembleLine l = .error e.reason := by
  rw [assembleLines_errors, List.mem_filterMap]
  simp only [lineError_eq_some_iff, Prod.exists, List.mk_mem_zipIdx_iff_le_and_getElem?_sub]
  constructor
  · rintro ⟨l, _, ⟨hn, hl⟩, rfl, herr⟩
    exact ⟨hn, l, hl, herr⟩
  · rintro ⟨hn, l, hl, herr⟩
    exact ⟨l, _, ⟨hn, hl⟩, rfl, herr⟩

/-- Settles O21: code and errors are two readings of the same numbered lines. -/
theorem assemblerErrorsArePerLine : Obligations.AssemblerErrorsArePerLine :=
  fun source => ⟨assemble_code source, assembleLines_errors_rising 1 _, fun _ _ => mem_assembleLines_errors 1 _ _⟩

/-! Texts and their pieces. -/

/-- A character that upper-casing, trimming and cutting into lines and operands all leave alone (R104, R105). -/
def PlainChar (c : Char) : Prop := c.toUpper = c ∧ c.isWhitespace = false ∧ c ≠ ','

/-- A nonempty text of such characters: a mnemonic or an operand. -/
def PlainText (cs : List Char) : Prop := cs ≠ [] ∧ ∀ c ∈ cs, PlainChar c

/-- The check of a closed text, by evaluation. -/
def isPlainText (cs : List Char) : Bool := !cs.isEmpty && cs.all fun c => c.toUpper == c && !c.isWhitespace && c != ','

theorem isPlainText_iff (cs : List Char) : isPlainText cs = true ↔ PlainText cs := by
  simp [isPlainText, PlainText, PlainChar, and_assoc]

theorem PlainText.space_notMem {cs : List Char} (h : PlainText cs) : ' ' ∉ cs :=
  fun hc => absurd (h.2 _ hc).2.1 (by decide)

theorem PlainText.newline_notMem {cs : List Char} (h : PlainText cs) : '\n' ∉ cs :=
  fun hc => absurd (h.2 _ hc).2.1 (by decide)

theorem PlainText.comma_notMem {cs : List Char} (h : PlainText cs) : ',' ∉ cs :=
  fun hc => (h.2 _ hc).2.2 rfl

theorem PlainText.reverse {cs : List Char} (h : PlainText cs) : PlainText cs.reverse :=
  ⟨fun hnil => h.1 (List.reverse_eq_nil_iff.1 hnil), fun c hc => h.2 c (List.mem_reverse.1 hc)⟩

theorem PlainText.map_toUpper {cs : List Char} (h : PlainText cs) : cs.map Char.toUpper = cs :=
  (List.map_congr_left fun c hc => (h.2 c hc).1).trans (List.map_id cs)

/-- Trimming stops at the first plain character. -/
theorem PlainText.dropWhile_append {cs : List Char} (h : PlainText cs) (rest : List Char) :
    (cs ++ rest).dropWhile Char.isWhitespace = cs ++ rest := by
  obtain ⟨hne, hplain⟩ := h
  cases cs with
  | nil => exact absurd rfl hne
  | cons c cs =>
    have hc : c.isWhitespace = false := (hplain c List.mem_cons_self).2.1
    simp [hc]

theorem trimText_between {a b : List Char} (ha : PlainText a) (hb : PlainText b) (mid : List Char) :
    trimText (a ++ (mid ++ b)) = a ++ (mid ++ b) := by
  have hreverse : (a ++ (mid ++ b)).reverse = b.reverse ++ (a ++ mid).reverse := by simp
  rw [trimText, ha.dropWhile_append, hreverse, hb.reverse.dropWhile_append, ← hreverse, List.reverse_reverse]

theorem PlainText.trimText_eq {a : List Char} (ha : PlainText a) : trimText a = a := by
  have h := ha.dropWhile_append []
  have h' := ha.reverse.dropWhile_append []
  rw [List.append_nil] at h h'
  rw [trimText, h, h', List.reverse_reverse]

theorem trimText_space_cons (cs : List Char) : trimText (' ' :: cs) = trimText cs := rfl

theorem splitAtChar_of_notMem {sep : Char} {cs : List Char} (h : sep ∉ cs) : splitAtChar sep cs = [cs] := by
  induction cs with
  | nil => rfl
  | cons c cs ih =>
    rw [List.mem_cons, not_or] at h
    rw [splitAtChar, if_neg (Ne.symm h.1), ih h.2]

theorem splitAtChar_append_cons {sep : Char} {as : List Char} (h : sep ∉ as) (bs : List Char) :
    splitAtChar sep (as ++ sep :: bs) = as :: splitAtChar sep bs := by
  induction as with
  | nil => rw [List.nil_append, splitAtChar, if_pos rfl]
  | cons c as ih =>
    rw [List.mem_cons, not_or] at h
    rw [List.cons_append, splitAtChar, if_neg (Ne.symm h.1), ih h.2]

theorem splitFirstSpace_append {as : List Char} (h : ' ' ∉ as) (bs : List Char) :
    splitFirstSpace (as ++ ' ' :: bs) = (as, some bs) := by
  induction as with
  | nil => rw [List.nil_append, splitFirstSpace, if_pos rfl]
  | cons c as ih =>
    rw [List.mem_cons, not_or] at h
    rw [List.cons_append, splitFirstSpace, if_neg (Ne.symm h.1), ih h.2]

/-! One line with two operands. -/

/-- A mnemonic and two operands as a disassembly writes them, upper-cased (R114). -/
def twoOperandText (m a b : List Char) : List Char := m ++ ([' '] ++ a ++ [',', ' '] ++ b)

theorem splitOperands_two {a b : List Char} (ha : PlainText a) (hb : PlainText b) :
    splitOperands (some (a ++ [',', ' '] ++ b)) = [a, b] := by
  have hcomma : ',' ∉ ' ' :: b := by
    rw [List.mem_cons, not_or]
    exact ⟨by decide, hb.comma_notMem⟩
  have hsplit : splitAtChar ',' (a ++ [',', ' '] ++ b) = [a, ' ' :: b] := by
    rw [List.append_assoc, List.cons_append, splitAtChar_append_cons ha.comma_notMem]
    exact congrArg _ (splitAtChar_of_notMem hcomma)
  simp only [splitOperands, hsplit, List.map_cons, List.map_nil, trimText_space_cons, ha.trimText_eq, hb.trimText_eq]

theorem assembleInstruction_two {m a b : List Char} (hm : PlainText m) (ha : PlainText a) (hb : PlainText b) :
    assembleInstruction (twoOperandText m a b) = searchTable m [a, b] asmTable := by
  have hcut : splitFirstSpace (twoOperandText m a b) = (m, some (a ++ [',', ' '] ++ b)) :=
    splitFirstSpace_append hm.space_notMem _
  rw [assembleInstruction, hcut, splitOperands_two ha hb]

theorem assembleLine_two {line m a b : List Char} (hline : line.map Char.toUpper = twoOperandText m a b) (hm : PlainText m)
    (hcomment : m.head? ≠ some ';') (ha : PlainText a) (hb : PlainText b) :
    assembleLine line = searchTable m [a, b] asmTable := by
  have htrim : trimText (twoOperandText m a b) = twoOperandText m a b := trimText_between hm hb _
  rw [← assembleInstruction_two hm ha hb, assembleLine, hline, htrim]
  split
  · next hnil => exact absurd (List.append_eq_nil_iff.1 hnil).1 hm.1
  · next hsemi =>
    have hhead : (twoOperandText m a b).head? = m.head? := List.head?_append_of_ne_nil m hm.1
    rw [hsemi] at hhead
    exact absurd hhead.symm hcomment
  · rfl

/-- A text of one line that spells an instruction assembles to its encoding (R110). -/
theorem assemble_two {line m a b : List Char} {i : Instr} (hline : line.map Char.toUpper = twoOperandText m a b)
    (hm : PlainText m) (hcomment : m.head? ≠ some ';') (ha : PlainText a) (hb : PlainText b)
    (hi : searchTable m [a, b] asmTable = .instr i) : assemble line = { code := encode i, errors := [] } := by
  have hnewline : '\n' ∉ line := fun h => by
    have hmem : '\n' ∈ twoOperandText m a b := hline ▸ List.mem_map_of_mem (f := Char.toUpper) h
    simp [twoOperandText, hm.newline_notMem, ha.newline_notMem, hb.newline_notMem] at hmem
  have hasm : assembleLine line = .instr i := (assembleLine_two hline hm hcomment ha hb).trans hi
  rw [assemble, splitAtChar_of_notMem hnewline]
  simp [assembleLines, hasm]

/-! The operands of a disassembly. -/

/-- A register operand is plain, is of its class, and is parsed to its index (R106, R109). -/
theorem regText_parses (r : RegIdx) :
    PlainText (regText r) ∧ classify (regText r) = .register ∧ parseRegister (regText r) = some r := by
  rw [← isPlainText_iff]
  revert r
  decide

theorem hexDigit_parses {n : Nat} (h : n < 16) : PlainChar (hexDigit n) ∧ digitValue 16 (hexDigit n) = some n := by
  unfold PlainChar
  interval_cases n <;> decide

/-- The last `k` hexadecimal digits of a number. -/
def hexDigits (k v : Nat) : List Char := (List.range k).map fun j => hexDigit ((v >>> (4 * (k - 1 - j))) % 16)

theorem hexDigits_succ (k v : Nat) : hexDigits (k + 1) v = hexDigit (v / 16 ^ k % 16) :: hexDigits k v := by
  have hpow : 16 ^ k = 2 ^ (4 * k) := by rw [Nat.pow_mul]
  have hindex (j : Nat) : k + 1 - 1 - (j + 1) = k - 1 - j := by omega
  simp only [hexDigits, List.range_succ_eq_map, List.map_cons, List.map_map, hpow, Nat.shiftRight_eq_div_pow, Nat.add_sub_cancel,
    Nat.sub_zero, List.cons.injEq, true_and]
  exact List.map_congr_left fun j _ => by simp only [Function.comp_apply, Nat.succ_eq_add_one, Nat.sub_add_eq, Nat.sub_right_comm]

theorem plainChar_of_mem_hexDigits {k v : Nat} {c : Char} (h : c ∈ hexDigits k v) : PlainChar c := by
  obtain ⟨j, -, rfl⟩ := List.mem_map.1 h
  exact (hexDigit_parses (Nat.mod_lt _ (by decide))).1

theorem parseDigits_hexDigits (k v acc : Nat) : parseDigits 16 acc (hexDigits k v) = some (acc * 16 ^ k + v % 16 ^ k) := by
  induction k generalizing acc with
  | zero => simp [hexDigits, parseDigits, Nat.mod_one]
  | succ k ih =>
    have hdigit := (hexDigit_parses (Nat.mod_lt (v / 16 ^ k) (by decide : 16 > 0))).2
    rw [hexDigits_succ, parseDigits, hdigit]
    simp only
    rw [ih, Nat.mod_pow_succ, Nat.pow_succ]
    congr 1
    ring

/-- An immediate operand, upper-cased. -/
def immText (v : Word) : List Char := ['#', '0', 'X'] ++ hexDigits 8 v.toNat

theorem hexDigits_eight_ne_nil (v : Nat) : hexDigits 8 v ≠ [] := by
  rw [hexDigits_succ]
  exact List.cons_ne_nil _ _

/-- An immediate operand is plain, is of its class, and is parsed to its value: eight digits are a whole word (R106, R108). -/
theorem immText_parses (v : Word) :
    PlainText (immText v) ∧ classify (immText v) = .immediate ∧ parseImmediate (immText v) = some v := by
  have hlt : v.toNat % 16 ^ 8 = v.toNat := Nat.mod_eq_of_lt v.isLt
  have hnumeral : parseNumeral 16 (hexDigits 8 v.toNat) = some v.toNat := by
    rw [parseNumeral, List.isEmpty_eq_false_iff.2 (hexDigits_eight_ne_nil _), parseDigits_hexDigits, hlt]
    simp
  have hlead : PlainText ['#', '0', 'X'] := (isPlainText_iff _).1 (by decide)
  refine ⟨⟨List.cons_ne_nil _ _, fun c hc => ?_⟩, rfl, ?_⟩
  · obtain hc | hc := List.mem_append.1 hc
    · exact hlead.2 c hc
    · exact plainChar_of_mem_hexDigits hc
  · have hparse : parseImmediate (immText v) = (parseNumeral 16 (hexDigits 8 v.toNat)).map (BitVec.ofNat 32) := rfl
    rw [hparse, hnumeral, Option.map_some, BitVec.ofNat_toNat, BitVec.setWidth_eq]

theorem map_toUpper_hexDigits (k v : Nat) : (hexDigits k v).map Char.toUpper = hexDigits k v :=
  (List.map_congr_left fun _ hc => (plainChar_of_mem_hexDigits hc).1).trans (List.map_id _)

/-- A disassembled immediate, upper-cased as the assembler does it (R104). -/
theorem map_toUpper_hexText (v : Word) : ('#' :: hexText 8 v.toNat).map Char.toUpper = immText v :=
  congrArg (['#', '0', 'X'] ++ ·) (map_toUpper_hexDigits 8 v.toNat)

/-! The table, searched. -/

theorem searchTable_mov_imm {a b : List Char} (ha : classify a = .immediate) (hb : classify b = .register) :
    searchTable ['M', 'O', 'V', '.', 'L'] [a, b] asmTable = buildImmReg Instr.movImm [a, b] := by
  simp [searchTable, asmTable, ha, hb]

theorem searchTable_mov_reg {a b : List Char} (ha : classify a = .register) (hb : classify b = .register) :
    searchTable ['M', 'O', 'V', '.', 'L'] [a, b] asmTable = buildRegReg Instr.movReg [a, b] := by
  simp [searchTable, asmTable, ha, hb]

theorem searchTable_add_imm {a b : List Char} (ha : classify a = .immediate) (hb : classify b = .register) :
    searchTable ['A', 'D', 'D', '.', 'L'] [a, b] asmTable = buildImmReg Instr.addImm [a, b] := by
  simp [searchTable, asmTable, ha, hb]

/-- The upper-cased pieces of a disassembly, put together. -/
theorem map_toUpper_two {m a b a' : List Char} (hm : PlainText m) (ha : a.map Char.toUpper = a') (hb : PlainText b) :
    (m ++ [' '] ++ a ++ [',', ' '] ++ b).map Char.toUpper = twoOperandText m a' b := by
  simp only [List.map_append, hm.map_toUpper, ha, hb.map_toUpper, twoOperandText, List.append_assoc]
  rfl

/-- Settles O20: each operand's text is parsed to the operand, and the table gives the instruction back. -/
theorem disassemblyAssemblesToTheEncoding : Obligations.DisassemblyAssemblesToTheEncoding := by
  intro i _
  have hmov : PlainText ['M', 'O', 'V', '.', 'L'] := (isPlainText_iff _).1 (by decide)
  have hadd : PlainText ['A', 'D', 'D', '.', 'L'] := (isPlainText_iff _).1 (by decide)
  cases i with
  | nop => decide
  | movImm d v =>
    obtain ⟨hd, hdclass, hdparse⟩ := regText_parses d
    obtain ⟨hv, hvclass, hvparse⟩ := immText_parses v
    refine assemble_two (map_toUpper_two hmov (map_toUpper_hexText v) hd) hmov (by decide) hv hd ?_
    rw [searchTable_mov_imm hvclass hdclass]
    simp only [buildImmReg, hvparse, hdparse]
  | movReg rs d =>
    obtain ⟨hd, hdclass, hdparse⟩ := regText_parses d
    obtain ⟨hs, hsclass, hsparse⟩ := regText_parses rs
    refine assemble_two (map_toUpper_two hmov hs.map_toUpper hd) hmov (by decide) hs hd ?_
    rw [searchTable_mov_reg hsclass hdclass]
    simp only [buildRegReg, hsparse, hdparse]
  | addImm d v =>
    obtain ⟨hd, hdclass, hdparse⟩ := regText_parses d
    obtain ⟨hv, hvclass, hvparse⟩ := immText_parses v
    refine assemble_two (map_toUpper_two hadd (map_toUpper_hexText v) hd) hadd (by decide) hv hd ?_
    rw [searchTable_add_imm hvclass hdclass]
    simp only [buildImmReg, hvparse, hdparse]

end Sys2Proof.Proofs
